-- ==== Sys2Proof/Word.lean ====
section
/-! DEFINITION. The element types of the block: 32-bit registers, bits, scalars, complex samples. -/

namespace Sys2Proof

/-- A `Nat32` register or payload item (R10, R21) and the command word (R90). -/
abbrev Word := BitVec 32

/-- One element of `BI` and `BO` (R10): 0 is `false`, 1 is `true`. -/
abbrev Bit := Bool

/-- The shape of a carrier `K` of a number system (R8): one finite value that can be written down, the other finite values
`F`, and the non-finite ones `N` (R306: infinities, NaN; none in the exact instance). Every type with a value in it has this
shape (Laws/Carrier.lean). -/
inductive ScalarOf (F N : Type) where
  | base
  | finite (v : F)
  | nonFinite (v : N)
  deriving DecidableEq, Repr, Inhabited

/-- The finite values of `NUM`'s carrier but one (R6, R8, D1). Open in the spec; log 1. `LinOrd` is Mathlib's bundle of a type
with a decidable equality; its order is used nowhere, and every type can be given one. -/
opaque Config.finiteValues : LinOrd.{0}

/-- The non-finite values of `NUM`'s carrier (R306, U9). Open in the spec; log 1. -/
opaque Config.nonFiniteValues : LinOrd.{0}

/-- The carrier `K` of the machine's number system `NUM` (R8): open, as the spec leaves it (R6, U14; log 1). -/
abbrev Scalar := ScalarOf Config.finiteValues Config.nonFiniteValues

/-- Is a scalar a finite value (R306)? -/
def ScalarOf.isFinite {F N : Type} : ScalarOf F N → Bool
  | .base | .finite _ => true
  | .nonFinite _ => false

/-- `Cplx` (R10): the pair (re, im), over any scalar carrier. -/
structure Cplx (K : Type) where
  re : K
  im : K
  deriving DecidableEq, Repr, Inhabited

/-- One element of `CI`, `CO`, `NO`. -/
abbrev Sample := Cplx Scalar

/-- Are both components of a complex value finite (R306)? -/
def Cplx.isFinite (z : Sample) : Bool := z.re.isFinite && z.im.isFinite

end Sys2Proof
end

