-- ==== Sys2Proof/Syntax.lean ====
section
/-! DEFINITION. The commands of R99 as data, with the registers, payload items and error codes they speak of. -/

namespace Sys2Proof

/-- The modulations of R24: "represent as a closed tagged variant". -/
inductive Modulation where
  | qpsk
  | qam16
  | qam64
  deriving DecidableEq, Repr, Inhabited

/-- The two cyclic-prefix types of R23 row 0x08 (informational, R25). -/
inductive CpType where
  | normal
  | extended
  deriving DecidableEq, Repr, Inhabited

/-- The kind of a control register or of a payload item (R21, R100). -/
inductive Kind where
  | nat32
  | scalar
  deriving DecidableEq, Repr

/-- A payload item, and the value of a register as RDREG answers it (R100, R126). -/
inductive Item where
  | nat32 (v : Word)
  | scalar (v : Scalar)
  deriving DecidableEq

/-- One tap of a channel profile (R32). -/
structure Tap where
  delay : Scalar
  gainDb : Scalar
  deriving DecidableEq, Inhabited

/-- A command as the host issues it: the word and the list of payload items (R90, R100). -/
structure Command where
  word : Word
  payload : List Item
  deriving DecidableEq

/-- The control registers of R23, each under its own name. -/
inductive Reg where
  | sBw | sScs | sNfft | sNc | sCplen | sMod | sTs | sScfdm | sCptype
  | aBw | aScs | aNfft | aNc | aCplen | aMod | aTs | aScfdm | aCptype | aBps
  | snrLin | fs | chtype | ntaps | fd | chFs
  | status | err | lastErr | errCmd | serErrs | serTotal | psig | pnoise | phase | symCnt
  deriving DecidableEq, Repr

/-- The seven error causes of R251. -/
inductive ErrorCode where
  | unsupportedModulation
  | missingSampleRate
  | unknownChannelType
  | dataShape
  | illegalCommand
  | notConfigured
  | configInvariant
  deriving DecidableEq, Repr

/-- The opcodes of R99. -/
inductive Opcode where
  | nop | reset | clrerr | rdreg | wrreg | commit
  | enc | dec
  | modsym | modstr | demsym | demstr
  | chsel | profld | fade | noise | chtx
  | det | ser
  deriving DecidableEq, Repr

/-- The 19 commands, one constructor per row of the opcode table, with the operands of R98 and the payload of R100. -/
inductive Instr where
  | nop
  | reset
  | clrerr
  | rdreg (reg : BitVec 8)
  | wrreg (reg : BitVec 8) (v : Item)
  | commit
  | enc (n : BitVec 24)
  | dec (n : BitVec 24)
  | modsym
  | modstr (n : BitVec 24)
  | demsym (n : BitVec 24)
  | demstr (n : BitVec 24)
  | chsel (t : BitVec 8)
  | profld (taps : List Tap) (fd : Scalar)
  | fade (n : BitVec 24)
  | noise (n : BitVec 24)
  | chtx (n : BitVec 24)
  | det (n : BitVec 24)
  | ser (a b : BitVec 12)
  deriving DecidableEq

end Sys2Proof
end

