-- ==== Sys2Proof/Machine/Sizes.lean ====
section
/-! DEFINITION. The numbers attached to a modulation, and the rounding-up division of the count laws. -/

namespace Sys2Proof

/-- Bits per constellation symbol: 2, 4, 6 (R27). -/
def Modulation.bps : Modulation → Nat
  | .qpsk => 2
  | .qam16 => 4
  | .qam64 => 6

/-- `L = √M`, the number of levels on each axis of the grid (R11). -/
def Modulation.side : Modulation → Nat
  | .qpsk => 2
  | .qam16 => 4
  | .qam64 => 8

/-- The modulation identifier held by `A_MOD` (R24). -/
def Modulation.ident : Modulation → Word
  | .qpsk => 0
  | .qam16 => 1
  | .qam64 => 2

/-- The modulation an identifier names; every other value is unsupported (R24). -/
def Modulation.ofIdent (w : Word) : Option Modulation :=
  if w = 0 then some .qpsk else if w = 1 then some .qam16 else if w = 2 then some .qam64 else none

/-- `ceil_div(a, b)` (R10): the least k with k·b ≥ a, for b ≥ 1. At b = 0 the spec gives no value, and no state that a run
reaches asks for it (log 20). -/
def ceilDiv (a b : Nat) : Nat := (a + b - 1) / b

end Sys2Proof
end

