-- ==== Sys2Proof/Config.lean ====
section
/-! DEFINITION. What the spec leaves to the implementation (R6): each parameter an opaque constant, so that no proof can
see its value. -/

namespace Sys2Proof

/-- The record `NUM` of R8 over a carrier `K`: total functions, each depending on its operands alone. The transforms keep
the length of their vector by their type. -/
structure NumSys (K : Type) where
  ofNat : Nat → K
  add : K → K → K
  sub : K → K → K
  mul : K → K → K
  neg : K → K
  div : K → K → K
  lt : K → K → Bool
  eq : K → K → Bool
  invSqrtNat : Nat → K
  cscale : Modulation → K
  udft : (n : Nat) → Vector (Cplx K) n → Vector (Cplx K) n
  uidft : (n : Nat) → Vector (Cplx K) n → Vector (Cplx K) n
  deriving Inhabited

/-- The byte order of a word on a byte-serial transport (R70). -/
inductive ByteOrder where
  | little
  | big
  deriving DecidableEq, Repr, Inhabited

/-- The implementation's number system `NUM` (R6, R8, D1). Open in the spec; log 2. -/
opaque Config.num : NumSys Scalar

/-- The enumeration `ENUM_M` (R143, D8), as a permutation of the default one: every bijection from the indices to the grid
is of this form. Open in the spec; log 3. -/
opaque Config.enum : (m : Modulation) → Equiv.Perm (Fin (2 ^ m.bps))

/-- The `FADE` oracle (R209, D22): its answer to the draw with this number and these arguments (taps, Doppler frequency,
sampling rate, input), of the input's length. A free value; log 4. -/
opaque Config.fade : Nat → List Tap → Scalar → Scalar → (x : List Sample) → Vector Sample x.length

/-- The `NOISE` oracle (R213, D23): its answer to the draw with this number, for n samples at noise power Pn. A free value;
log 5. The forced answer at Pn = 0 is in `noiseDraw`. -/
opaque Config.noise : Nat → (n : Nat) → Scalar → Vector Sample n

/-- `CMD_BYTE_ORDER` (R70, D29). Open in the spec; log 19. -/
opaque Config.cmdByteOrder : ByteOrder

/-- `SCALAR_WORDS` (R101, D29). Open in the spec; log 19. -/
opaque Config.scalarWords : Nat

/-- `scalar_encode` (R101, D29). Open in the spec; log 19. -/
opaque Config.scalarEncode : Scalar → Vector Word Config.scalarWords

end Sys2Proof
end

