-- ==== Sys2Proof/Machine/Registers.lean ====
section
/-! DEFINITION. The register map of R23: number, kind and access right of each control register. -/

namespace Sys2Proof

/-- The registers of R23 in the order of their numbers. -/
def Reg.all : List Reg :=
  [.sBw, .sScs, .sNfft, .sNc, .sCplen, .sMod, .sTs, .sScfdm, .sCptype,
   .aBw, .aScs, .aNfft, .aNc, .aCplen, .aMod, .aTs, .aScfdm, .aCptype, .aBps,
   .snrLin, .fs, .chtype, .ntaps, .fd, .chFs,
   .status, .err, .lastErr, .errCmd, .serErrs, .serTotal, .psig, .pnoise, .phase, .symCnt]

/-- The number of a register (R23, column "no."). -/
def Reg.number : Reg → BitVec 8
  | .sBw => 0x00
  | .sScs => 0x01
  | .sNfft => 0x02
  | .sNc => 0x03
  | .sCplen => 0x04
  | .sMod => 0x05
  | .sTs => 0x06
  | .sScfdm => 0x07
  | .sCptype => 0x08
  | .aBw => 0x10
  | .aScs => 0x11
  | .aNfft => 0x12
  | .aNc => 0x13
  | .aCplen => 0x14
  | .aMod => 0x15
  | .aTs => 0x16
  | .aScfdm => 0x17
  | .aCptype => 0x18
  | .aBps => 0x19
  | .snrLin => 0x20
  | .fs => 0x21
  | .chtype => 0x22
  | .ntaps => 0x23
  | .fd => 0x24
  | .chFs => 0x25
  | .status => 0x30
  | .err => 0x31
  | .lastErr => 0x32
  | .errCmd => 0x33
  | .serErrs => 0x34
  | .serTotal => 0x35
  | .psig => 0x36
  | .pnoise => 0x37
  | .phase => 0x38
  | .symCnt => 0x39

/-- The register a number names, if any: the numbers not listed in R23 are reserved. -/
def Reg.ofNumber (n : BitVec 8) : Option Reg := Reg.all.find? fun r => r.number == n

/-- The kind of a register (R23, column "kind"). -/
def Reg.kind : Reg → Kind
  | .sBw | .sScs | .sTs | .aBw | .aScs | .aTs | .snrLin | .fs | .fd | .chFs | .psig | .pnoise => .scalar
  | .sNfft | .sNc | .sCplen | .sMod | .sScfdm | .sCptype | .aNfft | .aNc | .aCplen | .aMod | .aScfdm | .aCptype
  | .aBps | .chtype | .ntaps | .status | .err | .lastErr | .errCmd | .serErrs | .serTotal | .phase | .symCnt => .nat32

/-- The RW registers (R23, column "acc"; R128 (e): exactly 0x00 to 0x08, 0x20, 0x21). -/
def Reg.writable : Reg → Bool
  | .sBw | .sScs | .sNfft | .sNc | .sCplen | .sMod | .sTs | .sScfdm | .sCptype | .snrLin | .fs => true
  | .aBw | .aScs | .aNfft | .aNc | .aCplen | .aMod | .aTs | .aScfdm | .aCptype | .aBps
  | .chtype | .ntaps | .fd | .chFs | .status | .err | .lastErr | .errCmd | .serErrs | .serTotal
  | .psig | .pnoise | .phase | .symCnt => false

/-- `kind_of_reg` (R105): the kind of the register a number names, and `Nat32` for a number that names none. -/
def kindOfReg (n : BitVec 8) : Kind :=
  match Reg.ofNumber n with
  | some r => r.kind
  | none => .nat32

/-- The kind of a payload item (R100). -/
def Item.kind : Item → Kind
  | .nat32 _ => .nat32
  | .scalar _ => .scalar

/-- Is a payload item a finite value (R306)? -/
def Item.isFinite : Item → Bool
  | .nat32 _ => true
  | .scalar v => v.isFinite

end Sys2Proof
end

