-- ==== Sys2Proof/WellFormed.lean ====
section
/-! DEFINITION. Which terms of `Instr` stand for an encoding: the two checks of R105 that the operand types do not make. -/

namespace Sys2Proof

/-- An instruction that some command encodes: a WRREG item has its register's kind (R100), and a profile has 1 to 255 taps
(R97). Every other operand is well formed by its type. -/
def Instr.wellFormed : Instr → Bool
  | .wrreg reg v => v.kind == kindOfReg reg
  | .profld taps _ => decide (1 ≤ taps.length ∧ taps.length ≤ 255)
  | .nop | .reset | .clrerr | .rdreg _ | .commit | .enc _ | .dec _ | .modsym | .modstr _ | .demsym _ | .demstr _
  | .chsel _ | .fade _ | .noise _ | .chtx _ | .det _ | .ser _ _ => true

end Sys2Proof
end

