-- ==== Sys2Proof/Decode.lean ====
section
/-! DEFINITION. The total decoder of R105, rejecting by name, and the encoder from the same formats (R91). -/

namespace Sys2Proof

/-- Why a command is illegal: (a) to (d) of R103. -/
inductive Illegal where
  | undefinedOpcode
  | mustBeZero
  | zeroTaps
  | wrongPayload
  deriving DecidableEq, Repr

/-- The opcodes of R99 in table order. -/
def Opcode.all : List Opcode :=
  [.nop, .reset, .clrerr, .rdreg, .wrreg, .commit, .enc, .dec, .modsym, .modstr, .demsym, .demstr,
   .chsel, .profld, .fade, .noise, .chtx, .det, .ser]

/-- Column `op` of R99. -/
def Opcode.byte : Opcode → BitVec 8
  | .nop => 0x00
  | .reset => 0x01
  | .clrerr => 0x02
  | .rdreg => 0x03
  | .wrreg => 0x04
  | .commit => 0x05
  | .enc => 0x10
  | .dec => 0x11
  | .modsym => 0x20
  | .modstr => 0x21
  | .demsym => 0x28
  | .demstr => 0x29
  | .chsel => 0x30
  | .profld => 0x31
  | .fade => 0x32
  | .noise => 0x33
  | .chtx => 0x34
  | .det => 0x40
  | .ser => 0x41

/-- The opcode a byte is; every byte not in R99 is illegal. -/
def Opcode.ofByte (b : BitVec 8) : Option Opcode := Opcode.all.find? fun o => o.byte == b

/-- `op = w[31:24]` (R90). -/
def opField (w : Word) : BitVec 8 := w.extractLsb' 24 8

/-- `arg = w[23:0]` (R90); the count `n` of format N (R98). -/
def argField (w : Word) : BitVec 24 := w.extractLsb' 0 24

/-- `w[23:8]`, the must-be-zero bits of formats R, C and L (R91). -/
def midField (w : Word) : BitVec 16 := w.extractLsb' 8 16

/-- `w[7:0]`: `reg`, `t` or `L` (R98). -/
def lowField (w : Word) : BitVec 8 := w.extractLsb' 0 8

/-- `a = w[23:12]` of format P (R98). -/
def aField (w : Word) : BitVec 12 := w.extractLsb' 12 12

/-- `b = w[11:0]` of format P (R98). -/
def bField (w : Word) : BitVec 12 := w.extractLsb' 0 12

/-- Format Z (R92): `arg` is 0, and no payload. -/
def decodeZ (w : Word) (pl : List Item) (i : Instr) : Except Illegal Instr :=
  if argField w ≠ 0 then .error .mustBeZero else if pl ≠ [] then .error .wrongPayload else .ok i

/-- Formats R (RDREG) and C (R93, R95): `arg[23:8]` is 0, and no payload. -/
def decodeByte (w : Word) (pl : List Item) (mk : BitVec 8 → Instr) : Except Illegal Instr :=
  if midField w ≠ 0 then .error .mustBeZero else if pl ≠ [] then .error .wrongPayload else .ok (mk (lowField w))

/-- Format N (R94): every count decodes; no payload. -/
def decodeN (w : Word) (pl : List Item) (mk : BitVec 24 → Instr) : Except Illegal Instr :=
  if pl ≠ [] then .error .wrongPayload else .ok (mk (argField w))

/-- The payload of WRREG (R100): one item of the register's kind. -/
def decodeWrite (w : Word) (pl : List Item) : Except Illegal Instr :=
  if midField w ≠ 0 then .error .mustBeZero
  else match pl with
    | [v] => if v.kind = kindOfReg (lowField w) then .ok (.wrreg (lowField w) v) else .error .wrongPayload
    | _ => .error .wrongPayload

/-- The payload of PROFLD (R100): L pairs of Scalars, then one Scalar. -/
def readProfile : Nat → List Item → Option (List Tap × Scalar)
  | 0, [.scalar fd] => some ([], fd)
  | n + 1, .scalar d :: .scalar g :: rest => (readProfile n rest).map fun p => (⟨d, g⟩ :: p.1, p.2)
  | _, _ => none

/-- Format L (R97): `arg[23:8]` is 0, L is not 0, and the payload is 2L + 1 Scalars. -/
def decodeProfile (w : Word) (pl : List Item) : Except Illegal Instr :=
  if midField w ≠ 0 then .error .mustBeZero
  else if lowField w = 0 then .error .zeroTaps
  else match readProfile (lowField w).toNat pl with
    | some (taps, fd) => .ok (.profld taps fd)
    | none => .error .wrongPayload

/-- Format P (R96): every pair of counts decodes; no payload. -/
def decodeP (w : Word) (pl : List Item) (mk : BitVec 12 → BitVec 12 → Instr) : Except Illegal Instr :=
  if pl ≠ [] then .error .wrongPayload else .ok (mk (aField w) (bField w))

/-- The operands of an opcode's command (R105, right of each opcode). -/
def decodeOperands (o : Opcode) (w : Word) (pl : List Item) : Except Illegal Instr :=
  match o with
  | .nop => decodeZ w pl .nop
  | .reset => decodeZ w pl .reset
  | .clrerr => decodeZ w pl .clrerr
  | .rdreg => decodeByte w pl .rdreg
  | .wrreg => decodeWrite w pl
  | .commit => decodeZ w pl .commit
  | .enc => decodeN w pl .enc
  | .dec => decodeN w pl .dec
  | .modsym => decodeZ w pl .modsym
  | .modstr => decodeN w pl .modstr
  | .demsym => decodeN w pl .demsym
  | .demstr => decodeN w pl .demstr
  | .chsel => decodeByte w pl .chsel
  | .profld => decodeProfile w pl
  | .fade => decodeN w pl .fade
  | .noise => decodeN w pl .noise
  | .chtx => decodeN w pl .chtx
  | .det => decodeN w pl .det
  | .ser => decodeP w pl .ser

/-- The decoder of R105: total on every word and every payload. -/
def decode (c : Command) : Except Illegal Instr :=
  match Opcode.ofByte (opField c.word) with
  | none => .error .undefinedOpcode
  | some o => decodeOperands o c.word c.payload

/-- A word of format Z (R91). -/
def wordZ (o : Opcode) : Word := o.byte ++ (0 : BitVec 24)

/-- A word of formats R, C and L (R91). -/
def wordByte (o : Opcode) (v : BitVec 8) : Word := o.byte ++ ((0 : BitVec 16) ++ v)

/-- A word of format N (R91). -/
def wordN (o : Opcode) (n : BitVec 24) : Word := o.byte ++ n

/-- A word of format P (R91). -/
def wordP (o : Opcode) (a b : BitVec 12) : Word := o.byte ++ (a ++ b)

/-- The payload of PROFLD (R100): delay and gain of each tap, then the Doppler frequency. -/
def profileItems : List Tap → Scalar → List Item
  | [], fd => [.scalar fd]
  | t :: ts, fd => .scalar t.delay :: .scalar t.gainDb :: profileItems ts fd

/-- The command that encodes an instruction (R91, R99, R100). -/
def encode : Instr → Command
  | .nop => ⟨wordZ .nop, []⟩
  | .reset => ⟨wordZ .reset, []⟩
  | .clrerr => ⟨wordZ .clrerr, []⟩
  | .rdreg reg => ⟨wordByte .rdreg reg, []⟩
  | .wrreg reg v => ⟨wordByte .wrreg reg, [v]⟩
  | .commit => ⟨wordZ .commit, []⟩
  | .enc n => ⟨wordN .enc n, []⟩
  | .dec n => ⟨wordN .dec n, []⟩
  | .modsym => ⟨wordZ .modsym, []⟩
  | .modstr n => ⟨wordN .modstr n, []⟩
  | .demsym n => ⟨wordN .demsym n, []⟩
  | .demstr n => ⟨wordN .demstr n, []⟩
  | .chsel t => ⟨wordByte .chsel t, []⟩
  | .profld taps fd => ⟨wordByte .profld (BitVec.ofNat 8 taps.length), profileItems taps fd⟩
  | .fade n => ⟨wordN .fade n, []⟩
  | .noise n => ⟨wordN .noise n, []⟩
  | .chtx n => ⟨wordN .chtx n, []⟩
  | .det n => ⟨wordN .det n, []⟩
  | .ser a b => ⟨wordP .ser a b, []⟩

/-- How many payload items the word calls for (R102). -/
def payloadCount (w : Word) : Nat :=
  match Opcode.ofByte (opField w) with
  | some .wrreg => 1
  | some .profld => 2 * (lowField w).toNat + 1
  | _ => 0

/-- The payload item of a kind that a table word is given, the table having none (log 16: for a Scalar, the value that can be
written down). -/
def zeroItem : Kind → Item
  | .nat32 => .nat32 0
  | .scalar => .scalar .base

/-- A payload of zeros, of the count and kinds the word calls for. -/
def zeroPayload (w : Word) : List Item :=
  match Opcode.ofByte (opField w) with
  | some .wrreg => [zeroItem (kindOfReg (lowField w))]
  | some .profld => List.replicate (2 * (lowField w).toNat + 1) (zeroItem .scalar)
  | _ => []

/-- The command whose word is the low 32 bits of `w` and whose payload is zeros. Every row of the table has one 32-bit word, so
the number of bits the table gives adds nothing. -/
def tableCommand (w : Nat) : Command := ⟨BitVec.ofNat 32 w, zeroPayload (BitVec.ofNat 32 w)⟩

/-- The instruction this decoder reads from a table word, its payload zeros. -/
def decodeTableWord (_nbits w : Nat) : Option Instr :=
  match decode (tableCommand w) with
  | .ok i => some i
  | .error _ => none

/-- The four bytes of a word in a byte order (R70). -/
def wordBytes (o : ByteOrder) (w : Word) : List (BitVec 8) :=
  let little := [w.extractLsb' 0 8, w.extractLsb' 8 8, w.extractLsb' 16 8, w.extractLsb' 24 8]
  match o with
  | .little => little
  | .big => little.reverse

/-- The transport words of a payload item (R101). -/
def itemWords : Item → List Word
  | .nat32 v => [v]
  | .scalar v => (Config.scalarEncode v).toList

/-- A command on a byte-serial transport (R70, R101): the word, then its payload items. No step depends on it (log 19). -/
def Command.bytes (c : Command) : List (BitVec 8) :=
  (c.word :: c.payload.flatMap itemWords).flatMap (wordBytes Config.cmdByteOrder)

end Sys2Proof
end

