-- ==== Sys2Proof/Machine/Numerics.lean ====
section
/-! DEFINITION. The complex arithmetic the block does, written once over any number system `NUM` (R8). -/

namespace Sys2Proof

variable {K : Type}

/-- The zero of the number system, `ofNat 0`. -/
def NumSys.zero (num : NumSys K) : K := num.ofNat 0

/-- An integer of the grid of R11, through `ofNat` and `neg`. DESIGN CHOICE (log 11): a negative level is `neg` of the
natural number; the spec does not say how `NUM` forms it. -/
def NumSys.ofInt (num : NumSys K) (i : Int) : K :=
  if 0 ≤ i then num.ofNat i.toNat else num.neg (num.ofNat (-i).toNat)

/-- The complex zero `0 + 0j` of R10. -/
def NumSys.zeroSample (num : NumSys K) : Cplx K := ⟨num.zero, num.zero⟩

/-- `zeros(n)` for complex elements (R10). -/
def NumSys.zeros (num : NumSys K) (n : Nat) : List (Cplx K) := List.replicate n num.zeroSample

/-- `|z|²` = re² + im² (R10). -/
def NumSys.normSq (num : NumSys K) (z : Cplx K) : K := num.add (num.mul z.re z.re) (num.mul z.im z.im)

/-- The squared distance `|r - p|²` (R147). -/
def NumSys.distSq (num : NumSys K) (r p : Cplx K) : K :=
  num.normSq ⟨num.sub r.re p.re, num.sub r.im p.im⟩

/-- The sum of two complex values (R212: y[i] = x[i] + w[i]). -/
def NumSys.addSample (num : NumSys K) (x w : Cplx K) : Cplx K := ⟨num.add x.re w.re, num.add x.im w.im⟩

/-- Symbol equality (R235): both parts equal under `NUM.eq`. -/
def NumSys.eqSample (num : NumSys K) (x y : Cplx K) : Bool := num.eq x.re y.re && num.eq x.im y.im

/-- The mean power `(1/n) · Σ |x[i]|²` (R212). The sum runs from the first sample on (log 11). -/
def NumSys.meanPower (num : NumSys K) (x : List (Cplx K)) : K :=
  num.mul (num.div (num.ofNat 1) (num.ofNat x.length))
    (x.foldl (fun acc z => num.add acc (num.normSq z)) num.zero)

/-- `UDFT_n` on a list of n values (R13). -/
def NumSys.forward (num : NumSys K) (v : List (Cplx K)) : List (Cplx K) :=
  (num.udft v.length ⟨v.toArray, rfl⟩).toList

/-- `UIDFT_n` on a list of n values (R12). -/
def NumSys.inverse (num : NumSys K) (v : List (Cplx K)) : List (Cplx K) :=
  (num.uidft v.length ⟨v.toArray, rfl⟩).toList

end Sys2Proof
end

