-- ==== Sys2Proof/Machine/State.lean ====
section
/-! DEFINITION. The state of the block (R20), the command port and the host's side, as plain data; reset; the reasons a step
stops. -/

namespace Sys2Proof.Machine

/-- The staged link configuration, registers 0x00 to 0x08 (R24). `none` is the spec's own value "unwritten" (R22). -/
structure Staged where
  bw : Option Scalar
  scs : Option Scalar
  nfft : Option Word
  nc : Option Word
  cplen : Option Word
  mod : Option Word
  ts : Option Scalar
  scfdm : Bool
  cptype : Option CpType
  deriving DecidableEq

/-- The active link configuration, registers 0x10 to 0x19 (R26), with the point set `ROM` that COMMIT writes with it (R28).
`A_BPS` is `mod.bps` (R27). Over any carrier, so that the datapath functions of the exact instance take one too. -/
structure Active (K : Type) where
  bw : Option K
  scs : Option K
  ts : Option K
  cptype : Option CpType
  nfft : Word
  nc : Word
  cplen : Word
  scfdm : Bool
  mod : Modulation
  rom : Vector (Cplx K) (2 ^ mod.bps)
  deriving DecidableEq, Repr

/-- The active profile: `TAP` and `FD` (R32), written together by PROFLD. -/
structure Profile where
  taps : List Tap
  fd : Scalar
  deriving DecidableEq

/-- The fading filter (R33): the sampling rate it was built with and its copy of the profile. Its hidden state (R40) is inside
the `FADE` oracle. -/
structure Filter where
  fs : Scalar
  profile : Option Profile
  deriving DecidableEq

/-- The channel object `CH` (R33); `CHTYPE` is its tag. -/
inductive Channel where
  | none
  | awgn
  | rayleigh (filter : Filter)
  deriving DecidableEq

/-- The sequencing phase (R30), encoded 0 to 5 in this order. -/
inductive Phase where
  | bits
  | symbols
  | frequencyDomain
  | timeDomain
  | withCyclicPrefix
  | serialized
  deriving DecidableEq, Repr

/-- The working buffers (R29), `none` while unwritten. -/
structure Buffers where
  bbuf : Option (List Bit)
  dbuf : Option (List Sample)
  fbuf : Option (List Sample)
  tbuf : Option (List Sample)
  obuf : Option (List Sample)
  deriving DecidableEq

/-- The command port (R66, R68): no command in hand; one issued and not yet looked at; one held for want of input. -/
inductive Port where
  | idle
  | issued (c : Command)
  | held (c : Command)
  deriving DecidableEq

/-- The response to a command (R68): code 0 or an error code of R251, and the value RDREG answers. -/
structure Response where
  code : Nat
  data : Option Item
  deriving DecidableEq

/-- What the host may do (R297). -/
inductive HostAction where
  | pushBits (l : List Bit)
  | pushSamples (l : List Sample)
  | popBits (n : Nat)
  | popSamples (n : Nat)
  | popNoise (n : Nat)
  | xferBits (n : Nat)
  | xferSamples (n : Nat)
  | issue (c : Command)
  | reset
  deriving DecidableEq

/-- The block, its command port, and what the host will do. -/
structure State where
  /-- registers 0x00 to 0x08 -/
  staged : Staged
  /-- registers 0x10 to 0x19 and `ROM`, unwritten until the first successful COMMIT -/
  active : Option (Active Scalar)
  /-- `SNR_LIN` (R34) -/
  snrLin : Option Scalar
  /-- `FS` (R35) -/
  fs : Option Scalar
  /-- `CH`, with `CHTYPE` (R33) -/
  ch : Channel
  /-- `TAP`, `NTAPS`, `FD` (R32) -/
  profile : Option Profile
  /-- `CH_FS` (R35) -/
  chFs : Option Scalar
  /-- `ERR` (R36) -/
  err : Word
  /-- `LASTERR` (R36) -/
  lastErr : Word
  /-- `ERRCMD` (R36) -/
  errCmd : Word
  /-- `SER_ERRS` (R37) -/
  serErrs : Word
  /-- `SER_TOTAL` (R37) -/
  serTotal : Word
  /-- `PSIG` (R38) -/
  psig : Option Scalar
  /-- `PNOISE` (R38) -/
  pnoise : Option Scalar
  /-- `PHASE` (R30) -/
  phase : Phase
  /-- `SYMIDX` (R30) -/
  symIdx : Nat
  /-- `SYMCNT` (R39) -/
  symCnt : Word
  /-- the working buffers (R29) -/
  buf : Buffers
  /-- input queue `BI`, head first (R64) -/
  bi : List Bit
  /-- input queue `CI` -/
  ci : List Sample
  /-- output queue `BO` -/
  bo : List Bit
  /-- output queue `CO` -/
  co : List Sample
  /-- output queue `NO` -/
  no : List Sample
  /-- the command port (R68) -/
  port : Port
  /-- the model's own: the host's actions still to come, first one first (log 6) -/
  script : List HostAction
  /-- the responses given so far, oldest first (R68) -/
  responses : List Response
  /-- the model's own: how many oracle answers have been drawn (logs 4, 5) -/
  draws : Nat
  deriving DecidableEq

/-- Why the machine stops. -/
inductive Fault where
  /-- Raised by the host's turn when a command is held and no host action is to come: the stuck run of R299 and U11. Safe: the
  hardware waits for ever and the model stops. -/
  | starved
  deriving DecidableEq, Repr

/-- What the model gives no meaning. -/
inductive Refusal where
  /-- Raised by an arm of `exec` for an instruction with no meaning yet. Safe: it stops. -/
  | notModelled (mnemonic : String)
  /-- Raised by MODSYM, MODSTR, DEMSYM, DEMSTR while `A_CPLEN` is not below `A_NFFT` (R167, R291, U1: refuse). Safe: it stops. -/
  | cyclicPrefixTooLong
  /-- Raised by WRREG of a value not above 0 to `SNR_LIN` (R128 (f), R215 (c), U5: refuse, at the write). Safe: it stops. -/
  | snrNotPositive
  /-- Raised by the host's turn: a second command while one is held (R292, U12). Safe: it stops. -/
  | overlappingCommand
  /-- Raised by the host's turn: a pop or transfer of more elements than the queue holds (R297, log 8). Safe: it stops. -/
  | hostOverdraw
  /-- Raised by the host's turn: a non-finite scalar in the payload of a command the host issues, or a non-finite component of
  a sample it pushes or transfers to `CI` (R306, U9: refuse; log 27). Safe: it stops. -/
  | nonFiniteValue
  deriving DecidableEq, Repr

/-- What a command or a step answers. -/
abbrev Out := Host.Outcome State Fault Refusal

/-- The staged registers after reset (R23, R42). -/
def Staged.reset : Staged :=
  { bw := none, scs := none, nfft := none, nc := none, cplen := none, mod := none, ts := none, scfdm := false,
    cptype := none }

/-- The working buffers after reset and after COMMIT: unwritten (R42, R132). -/
def Buffers.unwritten : Buffers := { bbuf := none, dbuf := none, fbuf := none, tbuf := none, obuf := none }

/-- The machine right after reset (R42, R280). The port is idle, the host has nothing planned, and no oracle answer has been
drawn (log 24). -/
def State.reset : State :=
  { staged := Staged.reset, active := none, snrLin := none, fs := none, ch := .none, profile := none, chFs := none,
    err := 0, lastErr := 0, errCmd := 0, serErrs := 0, serTotal := 0, psig := none, pnoise := none,
    phase := .bits, symIdx := 0, symCnt := 0, buf := Buffers.unwritten,
    bi := [], ci := [], bo := [], co := [], no := [],
    port := .idle, script := [], responses := [], draws := 0 }

end Sys2Proof.Machine
end

