-- ==== Sys2Proof/Machine/Ops.lean ====
section
/-! DEFINITION. The operations every command is made of: the response, the error entry (`raise`), the hold, the queues, the
needed configuration, the block reset. -/

namespace Sys2Proof.Machine

/-- The code of an error cause (R251). -/
def errorCode : ErrorCode → Nat
  | .unsupportedModulation => 1
  | .missingSampleRate => 2
  | .unknownChannelType => 3
  | .dataShape => 4
  | .illegalCommand => 5
  | .notConfigured => 6
  | .configInvariant => 7

/-- `respond(code, data)` (R68): the command is over and its response given. -/
def State.respond (code : Nat) (data : Option Item) (s : State) : State :=
  { s with port := .idle, responses := s.responses ++ [⟨code, data⟩] }

/-- `raise E(w)` (R262): the one entry of every error. -/
def State.raise (e : ErrorCode) (w : Word) (s : State) : State :=
  State.respond (errorCode e) none
    { s with err := s.err ||| (1#32 <<< errorCode e), lastErr := BitVec.ofNat 32 (errorCode e), errCmd := w }

/-- The hold (R66): the issued command stays on the port, not started; nothing else changes. -/
def State.hold (s : State) : State :=
  { s with port := match s.port with
      | .issued c => .held c
      | p => p }

/-- A command that ends well: `respond(0)`. -/
def complete (s : State) : Out := .next (s.respond 0 none)

/-- A command that ends with an error (R262). There is no other return from an error than the next command (R264). -/
def fail (e : ErrorCode) (w : Word) (s : State) : Out := .next (s.raise e w)

/-- The word of a command, which `raise` records (R262). -/
def wordOf (i : Instr) : Word := (encode i).word

/-- The check for an active configuration (R140, R160, R180, R230). -/
def needConfig (w : Word) (s : State) (k : Active Scalar → Out) : Out :=
  match s.active with
  | none => fail .notConfigured w s
  | some a => k a

/-- The host's duty cp < N (R167, R291): without it the transceiver commands have no meaning. -/
def needPrefix {K : Type} (a : Active K) (k : Out) : Out :=
  if a.cplen.toNat < a.nfft.toNat then k else .refused .cyclicPrefixTooLong

/-- `pop(BI, n)`, held until `BI` has n bits (R66). -/
def popBits (n : Nat) (s : State) (k : List Bit → State → Out) : Out :=
  if n ≤ s.bi.length then k (s.bi.take n) { s with bi := s.bi.drop n } else .next s.hold

/-- `pop(CI, n)`, held until `CI` has n elements (R66). -/
def popSamples (n : Nat) (s : State) (k : List Sample → State → Out) : Out :=
  if n ≤ s.ci.length then k (s.ci.take n) { s with ci := s.ci.drop n } else .next s.hold

/-- `push(BO, l)`. -/
def State.pushBits (l : List Bit) (s : State) : State := { s with bo := s.bo ++ l }

/-- `push(CO, l)`. -/
def State.pushSamples (l : List Sample) (s : State) : State := { s with co := s.co ++ l }

/-- `push(NO, l)`. -/
def State.pushNoise (l : List Sample) (s : State) : State := { s with no := s.no ++ l }

/-- `pc <- (BITS, 0); x[SYMCNT] <- k mod 2^32`, the end of every transceiver command (R163, R170, R182, R186). -/
def State.endSymbols (k : Nat) (s : State) : State :=
  { s with phase := .bits, symIdx := 0, symCnt := BitVec.ofNat 32 k }

/-- The block in its reset state (R42, R123, R280). What is not the block stays: the port and its responses, the host's
plan, and the number of draws, so that an oracle never repeats itself (log 14). -/
def State.resetBlock (s : State) : State :=
  { State.reset with port := s.port, script := s.script, responses := s.responses, draws := s.draws }

end Sys2Proof.Machine
end

