-- ==== Sys2Proof/Machine/Flags.lean ====
section
/-! DEFINITION. The `STATUS` flags (R31), computed from the state they report: "the written / unwritten marks of rule R22 made
readable" (log 12). -/

namespace Sys2Proof.Machine

/-- Bit 0 `CFG_VALID`: a COMMIT has succeeded since reset. -/
def State.cfgValid (s : State) : Bool := s.active.isSome

/-- The tag of the channel object, `CHTYPE` (R33). -/
def channelType : Channel → Nat
  | .none => 0
  | .awgn => 1
  | .rayleigh _ => 2

/-- Bit 1 `CH_VALID`: `CHTYPE` is not 0. -/
def State.chValid (s : State) : Bool := channelType s.ch != 0

/-- Bit 2 `FS_VALID`: `FS` has been written. -/
def State.fsValid (s : State) : Bool := s.fs.isSome

/-- Bit 3 `PROF_VALID`: a PROFLD has succeeded. -/
def State.profValid (s : State) : Bool := s.profile.isSome

/-- Bit 4 `SNR_VALID`: `SNR_LIN` has been written. -/
def State.snrValid (s : State) : Bool := s.snrLin.isSome

/-- The `STATUS` register: bits 31:5 read 0. -/
def State.statusWord (s : State) : Word :=
  BitVec.ofNat 32 (s.cfgValid.toNat + 2 * s.chValid.toNat + 4 * s.fsValid.toNat + 8 * s.profValid.toNat
    + 16 * s.snrValid.toNat)

end Sys2Proof.Machine
end

