-- ==== Sys2Proof/Machine/Channel.lean ====
section
/-! DEFINITION. The channel unit: CHSEL, PROFLD, FADE, NOISE, CHTX (R200 to R218). -/

namespace Sys2Proof.Machine

/-- CHSEL t (R201): an unknown type is judged before a missing sampling rate. CHSEL 1 leaves `CH_FS` as it was (log 15). -/
def execChsel (t : BitVec 8) (s : State) : Out :=
  if t = 1 then complete { s with ch := .awgn }
  else if t = 2 then
    match s.fs with
    | none => fail .missingSampleRate (wordOf (.chsel t)) s
    | some f => complete { s with chFs := some f, ch := .rayleigh ⟨f, s.profile⟩ }
  else fail .unknownChannelType (wordOf (.chsel t)) s

/-- The channel object after a profile change (R204): a filter's delay/gain state is replaced, anything else stays. DEDUCED (log 30):
its sampling rate stays, as R204 says of `CH_FS`, though R35 names this change among those that are handed `FS`. -/
def Channel.withProfile (p : Profile) : Channel → Channel
  | .rayleigh f => .rayleigh { f with profile := some p }
  | .awgn => .awgn
  | .none => .none

/-- PROFLD (R204): profile and filter replaced together. A tap count the encoding cannot carry (R97) raises `IllegalCommand`
(log 17). -/
def execProfld (taps : List Tap) (fd : Scalar) (s : State) : Out :=
  if 1 ≤ taps.length ∧ taps.length ≤ 255 then
    complete { s with profile := some ⟨taps, fd⟩, ch := Channel.withProfile ⟨taps, fd⟩ s.ch }
  else fail .illegalCommand (wordOf (.profld taps fd)) s

/-- `draw(FADE, (TAP, FD, CH_FS, x))` (R209): the oracle's answer, and the draw counted. No draw for an empty input (R208 (a),
R216 (d)). DESIGN CHOICE (log 4): two instances of the block (R274, U20) that draw with equal numbers and arguments get one
answer. -/
def fadeDraw (p : Profile) (fs : Scalar) (x : List Sample) (s : State) : List Sample × State :=
  if x = [] then ([], s)
  else ((Config.fade s.draws p.taps p.fd fs x).toList, { s with draws := s.draws + 1 })

/-- `draw(NOISE, (n, Pn))` (R213): n values; zeros when Pn is 0 under `NUM.eq`, the point mass the rule states. DESIGN CHOICE
(log 5): the free value depends on the number of the draw, n and Pn alone, so two instances of the block (R274, U20) that draw
with equal numbers and arguments get one answer. -/
def noiseDraw (k n : Nat) (pn : Scalar) : List Sample :=
  if Config.num.eq pn Config.num.zero then Config.num.zeros n else (Config.noise k n pn).toList

/-- The noise step (R212 from "if n = 0" on) over the reference signal `x`. -/
def noiseStep (snr : Scalar) (x : List Sample) (s : State) : State :=
  if x = [] then s
  else
    let p := Config.num.meanPower x
    let pn := Config.num.div p snr
    let w := noiseDraw s.draws x.length pn
    State.pushNoise w
      (State.pushSamples (List.zipWith Config.num.addSample x w)
        { s with psig := some p, pnoise := some pn, draws := s.draws + 1 })

/-- The multipath channel, its profile and the sampling rate of its filter, where all three are there (R208, R216; a needed
`CH_FS` that is unwritten is R22's `NotConfigured`, log 15). -/
def fadingSetup (s : State) : Option (Profile × Scalar) :=
  match s.ch, s.profile, s.chFs with
  | .rayleigh _, some p, some fs => some (p, fs)
  | _, _, _ => none

/-- FADE n (R208). -/
def execFade (n : BitVec 24) (s : State) : Out :=
  match fadingSetup s with
  | none => fail .notConfigured (wordOf (.fade n)) s
  | some (p, fs) =>
    popSamples n.toNat s fun x t =>
    complete ((fadeDraw p fs x t).2.pushSamples (fadeDraw p fs x t).1)

/-- NOISE n (R212). -/
def execNoise (n : BitVec 24) (s : State) : Out :=
  match s.ch, s.snrLin with
  | .awgn, some snr | .rayleigh _, some snr =>
    popSamples n.toNat s fun x t => complete (noiseStep snr x t)
  | _, _ => fail .notConfigured (wordOf (.noise n)) s

/-- CHTX n (R216): under AWGN the noise step on the input; under multipath the fading filter first, and the faded signal as
the power reference. -/
def execChtx (n : BitVec 24) (s : State) : Out :=
  match s.ch, s.snrLin with
  | .awgn, some snr => popSamples n.toNat s fun x t => complete (noiseStep snr x t)
  | .rayleigh _, some snr =>
    match fadingSetup s with
    | none => fail .notConfigured (wordOf (.chtx n)) s
    | some (p, fs) =>
      popSamples n.toNat s fun x t => complete (noiseStep snr (fadeDraw p fs x t).1 (fadeDraw p fs x t).2)
  | _, _ => fail .notConfigured (wordOf (.chtx n)) s

end Sys2Proof.Machine
end

