-- ==== Sys2Proof/Machine/PointSet.lean ====
section
/-! DEFINITION. The constellation point set, bits to index and back, and the nearest point (R142 to R148), over any number
system. -/

namespace Sys2Proof

variable {K : Type}

/-- The grid point (I, Q) of an index under the default enumeration of R143: row-major, the in-phase level as the row. -/
def gridPoint (m : Modulation) (i : Nat) : Int × Int :=
  (2 * (i / m.side : Nat) - (m.side - 1), 2 * (i % m.side : Nat) - (m.side - 1))

/-- `cscale_M · (I + j·Q)` (R142). DESIGN CHOICE (log 11): in `NUM`, one `mul` for each part, the scale on the left and the
level, with its sign, on the right; the spec states the product in exact arithmetic only. -/
def scalePoint (num : NumSys K) (m : Modulation) (g : Int × Int) : Cplx K :=
  ⟨num.mul (num.cscale m) (num.ofInt g.1), num.mul (num.cscale m) (num.ofInt g.2)⟩

/-- `points(mod)` (R142) under an enumeration given as a permutation of the default one (R143). -/
def points (num : NumSys K) (m : Modulation) (e : Equiv.Perm (Fin (2 ^ m.bps))) : Vector (Cplx K) (2 ^ m.bps) :=
  Vector.ofFn fun i => scalePoint num m (gridPoint m (e i))

/-- `index(c)` (R146): the integer the bits of a chunk spell, the first bit the most significant. -/
def chunkIndex (b : Nat) (c : List Bit) : BitVec b := BitVec.ofNat b (c.foldl (fun acc x => 2 * acc + x.toNat) 0)

/-- `MemRead(ROM, i, 1)` (R61): an index of `b` bits is always one of the table's 2^b addresses. -/
def romAt {b : Nat} (rom : Vector (Cplx K) (2 ^ b)) (i : BitVec b) : Cplx K := rom[i.toFin]

/-- Bits `s·w .. (s+1)·w - 1` of a sequence. -/
def slice {α : Type} (l : List α) (w s : Nat) : List α := (l.drop (s * w)).take w

/-- The first `count` chunks of a bit sequence, each mapped to its point (R145, R162). -/
def mapChunks {b : Nat} (rom : Vector (Cplx K) (2 ^ b)) (count : Nat) (bits : List Bit) : List (Cplx K) :=
  (List.range count).map fun s => romAt rom (chunkIndex b (slice bits b s))

/-- A bit sequence right-padded with zero bits to a length (R71). -/
def padBits (n : Nat) (bits : List Bit) : List Bit := bits ++ List.replicate (n - bits.length) false

/-- The symbols of ENC (R145): the padded sequence, chunk by chunk. -/
def encodeBits {b : Nat} (rom : Vector (Cplx K) (2 ^ b)) (bits : List Bit) : List (Cplx K) :=
  mapChunks rom (ceilDiv bits.length b) (padBits (ceilDiv bits.length b * b) bits)

/-- The search of R147 over the entries from index `i` on, with the best index so far and its squared distance. -/
def nearestFrom (num : NumSys K) (r : Cplx K) : List (Cplx K) → Nat → Nat → K → Nat
  | [], _, best, _ => best
  | p :: ps, i, best, dbest =>
    if num.lt (num.distSq r p) dbest then nearestFrom num r ps (i + 1) i (num.distSq r p)
    else nearestFrom num r ps (i + 1) best dbest

/-- `nearest(r)` (R147): the first index of least squared distance. -/
def nearest {b : Nat} (num : NumSys K) (rom : Vector (Cplx K) (2 ^ b)) (r : Cplx K) : BitVec b :=
  match rom.toList with
  | [] => 0
  | p :: ps => BitVec.ofNat b (nearestFrom num r ps 1 0 (num.distSq r p))

/-- The bits of an index, most significant first (R148). -/
def indexBits {b : Nat} (i : BitVec b) : List Bit := (List.range b).map fun t => i.getLsbD (b - 1 - t)

/-- The bits of DEC (R148). -/
def decodeSymbols {b : Nat} (num : NumSys K) (rom : Vector (Cplx K) (2 ^ b)) (r : List (Cplx K)) : List Bit :=
  r.flatMap fun z => indexBits (nearest num rom z)

/-- The points of DET (R231). -/
def detectSymbols {b : Nat} (num : NumSys K) (rom : Vector (Cplx K) (2 ^ b)) (r : List (Cplx K)) : List (Cplx K) :=
  r.map fun z => romAt rom (nearest num rom z)

end Sys2Proof
end

