-- ==== Sys2Proof/Machine/Codec.lean ====
section
/-! DEFINITION. The constellation codec: ENC and DEC (R140 to R151). -/

namespace Sys2Proof.Machine

/-- ENC n (R145). -/
def execEnc (n : BitVec 24) (s : State) : Out :=
  needConfig (wordOf (.enc n)) s fun a =>
  popBits n.toNat s fun b t =>
  complete (t.pushSamples (encodeBits a.rom b))

/-- DEC n (R148). -/
def execDec (n : BitVec 24) (s : State) : Out :=
  needConfig (wordOf (.dec n)) s fun a =>
  popSamples n.toNat s fun r t =>
  complete (t.pushBits (decodeSymbols Config.num a.rom r))

end Sys2Proof.Machine
end

