-- ==== Sys2Proof/Machine/Modulator.lean ====
section
/-! DEFINITION. The OFDM modulator: one OFDM symbol stage by stage (R161), MODSYM and MODSTR (R160 to R175). -/

namespace Sys2Proof.Machine

variable {K : Type}

/-- Bits per OFDM symbol, `BPO = Nc · bps` (R15). -/
def Active.bpo (a : Active K) : Nat := a.nc.toNat * a.mod.bps

/-- Samples per OFDM symbol, `SPO = N + cp` (R15). -/
def Active.spo (a : Active K) : Nat := a.nfft.toNat + a.cplen.toNat

/-- What the modulator's working buffers hold when one OFDM symbol is done (R29, R161). -/
structure ModStages (K : Type) where
  bbuf : List Bit
  dbuf : List (Cplx K)
  fbuf : List (Cplx K)
  tbuf : List (Cplx K)
  obuf : List (Cplx K)

/-- Stage `SYMBOLS` before precoding (R162): Nc chunks of bps bits, each mapped as ENC maps it. -/
def symbolStage (a : Active K) (b : List Bit) : List (Cplx K) := mapChunks a.rom a.nc.toNat b

/-- SC-FDM precoding (R164): the size-Nc forward transform when `A_SCFDM` is 1, nothing when it is 0. -/
def precode (num : NumSys K) (a : Active K) (d : List (Cplx K)) : List (Cplx K) := if a.scfdm then num.forward d else d

/-- The subcarrier mapper (R165): bins 0 .. Nc-1 in order, the others zero. -/
def mapBins (num : NumSys K) (a : Active K) (d : List (Cplx K)) : List (Cplx K) :=
  d ++ num.zeros (a.nfft.toNat - a.nc.toNat)

/-- The cyclic-prefix inserter (R166): the last cp samples in front, `TBUF[N-cp .. N) ++ TBUF`. -/
def insertPrefix (a : Active K) (t : List (Cplx K)) : List (Cplx K) := t.drop (a.nfft.toNat - a.cplen.toNat) ++ t

/-- `ofdm_mod` (R161), with the contents of every stage. -/
def ofdmMod (num : NumSys K) (a : Active K) (b : List Bit) : ModStages K :=
  let d := precode num a (symbolStage a b)
  let f := mapBins num a d
  let t := num.inverse f
  { bbuf := b, dbuf := d, fbuf := f, tbuf := t, obuf := insertPrefix a t }

/-- The OFDM symbols of a stream of bits (R170): K of them, the last one's bits padded with zero bits. -/
def modSymbols (num : NumSys K) (a : Active K) (b : List Bit) : List (ModStages K) :=
  (List.range (ceilDiv b.length a.bpo)).map fun i =>
    ofdmMod num a (slice (padBits (ceilDiv b.length a.bpo * a.bpo) b) a.bpo i)

/-- The samples of a stream of bits (R170), OFDM symbol after OFDM symbol. -/
def modStream (num : NumSys K) (a : Active K) (b : List Bit) : List (Cplx K) :=
  (modSymbols num a b).flatMap fun o => o.obuf

/-- The working buffers after a list of OFDM symbols: those of the last one (R29, log 13). -/
def Buffers.afterMod (l : List (ModStages Scalar)) (b : Buffers) : Buffers :=
  match l.getLast? with
  | none => b
  | some o => { bbuf := some o.bbuf, dbuf := some o.dbuf, fbuf := some o.fbuf, tbuf := some o.tbuf, obuf := some o.obuf }

/-- The end of a modulator command: the samples to `CO`, the buffers, `SYMCNT`. -/
def State.emitSymbols (l : List (ModStages Scalar)) (s : State) : State :=
  State.endSymbols l.length { s.pushSamples (l.flatMap fun o => o.obuf) with buf := Buffers.afterMod l s.buf }

/-- MODSYM (R163). -/
def execModsym (s : State) : Out :=
  needConfig (wordOf .modsym) s fun a =>
  needPrefix a <|
  popBits a.bpo s fun b t =>
  complete (t.emitSymbols [ofdmMod Config.num a b])

/-- MODSTR n (R170). -/
def execModstr (n : BitVec 24) (s : State) : Out :=
  needConfig (wordOf (.modstr n)) s fun a =>
  needPrefix a <|
  popBits n.toNat s fun b t =>
  complete (t.emitSymbols (modSymbols Config.num a b))

end Sys2Proof.Machine
end

