-- ==== Sys2Proof/Machine/Demodulator.lean ====
section
/-! DEFINITION. The OFDM demodulator: one sample chunk stage by stage (R181), DEMSYM and DEMSTR (R180 to R190). -/

namespace Sys2Proof.Machine

variable {K : Type}

/-- What the demodulator's working buffers hold when one sample chunk is done (R29, R181). `BBUF` is not among them: the walk
stops at `SYMBOLS`. -/
structure DemStages (K : Type) where
  obuf : List (Cplx K)
  tbuf : List (Cplx K)
  fbuf : List (Cplx K)
  dbuf : List (Cplx K)

/-- A chunk extended at its end with zero samples to SPO (R183). -/
def padChunk (num : NumSys K) (a : Active K) (c : List (Cplx K)) : List (Cplx K) := c ++ num.zeros (a.spo - c.length)

/-- The prefix stripper (R183): `OBUF[cp .. cp+N)`. -/
def stripPrefix (a : Active K) (o : List (Cplx K)) : List (Cplx K) := (o.drop a.cplen.toNat).take a.nfft.toNat

/-- SC-FDM decoding (R185): the size-Nc inverse transform when `A_SCFDM` is 1, nothing when it is 0. -/
def deprecode (num : NumSys K) (a : Active K) (d : List (Cplx K)) : List (Cplx K) := if a.scfdm then num.inverse d else d

/-- `ofdm_demod` (R181), with the contents of every stage; the demapper keeps bins 0 .. Nc-1 (R184). -/
def ofdmDemod (num : NumSys K) (a : Active K) (c : List (Cplx K)) : DemStages K :=
  let o := padChunk num a c
  let t := stripPrefix a o
  let f := num.forward t
  { obuf := o, tbuf := t, fbuf := f, dbuf := deprecode num a (f.take a.nc.toNat) }

/-- The sample chunks of a stream (R186), the last one perhaps short. -/
def demChunks (num : NumSys K) (a : Active K) (x : List (Cplx K)) : List (DemStages K) :=
  (List.range (ceilDiv x.length a.spo)).map fun i => ofdmDemod num a (slice x a.spo i)

/-- The symbols of a stream of samples (R186), chunk after chunk. -/
def demStream (num : NumSys K) (a : Active K) (x : List (Cplx K)) : List (Cplx K) :=
  (demChunks num a x).flatMap fun o => o.dbuf

/-- The working buffers after a list of sample chunks: those of the last one; `BBUF` stays (R29, log 13). -/
def Buffers.afterDem (l : List (DemStages Scalar)) (b : Buffers) : Buffers :=
  match l.getLast? with
  | none => b
  | some o => { b with dbuf := some o.dbuf, fbuf := some o.fbuf, tbuf := some o.tbuf, obuf := some o.obuf }

/-- The end of a demodulator command: the symbols to `CO`, the buffers, `SYMCNT`. -/
def State.emitChunks (l : List (DemStages Scalar)) (s : State) : State :=
  State.endSymbols l.length { s.pushSamples (l.flatMap fun o => o.dbuf) with buf := Buffers.afterDem l s.buf }

/-- DEMSYM n (R182): a count above one chunk is an `IllegalCommand`, judged before the refusal of R180 (log 9). -/
def execDemsym (n : BitVec 24) (s : State) : Out :=
  needConfig (wordOf (.demsym n)) s fun a =>
  if a.spo < n.toNat then fail .illegalCommand (wordOf (.demsym n)) s
  else needPrefix a <|
    popSamples n.toNat s fun c t =>
    complete (t.emitChunks [ofdmDemod Config.num a c])

/-- DEMSTR n (R186). -/
def execDemstr (n : BitVec 24) (s : State) : Out :=
  needConfig (wordOf (.demstr n)) s fun a =>
  needPrefix a <|
  popSamples n.toNat s fun x t =>
  complete (t.emitChunks (demChunks Config.num a x))

end Sys2Proof.Machine
end

