-- ==== Sys2Proof/Machine/Detector.lean ====
section
/-! DEFINITION. The symbol detector: DET and SER (R230 to R236). -/

namespace Sys2Proof.Machine

/-- DET n (R231). -/
def execDet (n : BitVec 24) (s : State) : Out :=
  needConfig (wordOf (.det n)) s fun a =>
  popSamples n.toNat s fun r t =>
  complete (t.pushSamples (detectSymbols Config.num a.rom r))

/-- The number of positions at which two sequences of one length differ (R236), under the equality of R235. -/
def symbolErrors {K : Type} (num : NumSys K) (tx rx : List (Cplx K)) : Nat :=
  (List.zip tx rx).countP fun p => !num.eqSample p.1 p.2

/-- SER a, b (R236): one hold for a + b elements, the first a of them the transmitted symbols. -/
def execSer (a b : BitVec 12) (s : State) : Out :=
  if a ≠ b then fail .dataShape (wordOf (.ser a b)) s
  else
    popSamples (a.toNat + b.toNat) s fun x t =>
    complete { t with
      serErrs := BitVec.ofNat 32 (symbolErrors Config.num (x.take a.toNat) (x.drop a.toNat))
      serTotal := BitVec.ofNat 32 a.toNat }

end Sys2Proof.Machine
end

