-- ==== Sys2Proof/Machine/Operands.lean ====
section
/-! DEFINITION. The operand forms: reading and writing a control register by name (R23, R63, R126, R128). -/

namespace Sys2Proof.Machine

/-- A two-valued register as a Nat32 (R23 rows 0x07, 0x17). -/
def boolWord (b : Bool) : Word := if b then 1 else 0

/-- The value 0 or 1 of a two-valued register; other values cannot be written (R23, R128). -/
def boolOfWord (w : Word) : Option Bool := if w = 0 then some false else if w = 1 then some true else none

/-- The cyclic-prefix type as a Nat32 (R23 rows 0x08, 0x18). -/
def cpTypeWord : CpType → Word
  | .normal => 0
  | .extended => 1

/-- The cyclic-prefix type a Nat32 names; other values cannot be written (R23, R128). -/
def cpTypeOfWord (w : Word) : Option CpType := if w = 0 then some .normal else if w = 1 then some .extended else none

/-- The encoding of `PHASE` (R30). -/
def phaseWord : Phase → Word
  | .bits => 0
  | .symbols => 1
  | .frequencyDomain => 2
  | .timeDomain => 3
  | .withCyclicPrefix => 4
  | .serialized => 5

/-- `NTAPS`: the tap count of the active profile, 0 when none is loaded (R23). -/
def State.tapCount (s : State) : Nat :=
  match s.profile with
  | none => 0
  | some p => p.taps.length

/-- The value of a control register, `none` while it is unwritten (R22, R23). -/
def State.readReg (r : Reg) (s : State) : Option Item :=
  match r with
  | .sBw => s.staged.bw.map .scalar
  | .sScs => s.staged.scs.map .scalar
  | .sNfft => s.staged.nfft.map .nat32
  | .sNc => s.staged.nc.map .nat32
  | .sCplen => s.staged.cplen.map .nat32
  | .sMod => s.staged.mod.map .nat32
  | .sTs => s.staged.ts.map .scalar
  | .sScfdm => some (.nat32 (boolWord s.staged.scfdm))
  | .sCptype => s.staged.cptype.map fun c => .nat32 (cpTypeWord c)
  | .aBw => s.active.bind fun a => a.bw.map .scalar
  | .aScs => s.active.bind fun a => a.scs.map .scalar
  | .aNfft => s.active.map fun a => .nat32 a.nfft
  | .aNc => s.active.map fun a => .nat32 a.nc
  | .aCplen => s.active.map fun a => .nat32 a.cplen
  | .aMod => s.active.map fun a => .nat32 a.mod.ident
  | .aTs => s.active.bind fun a => a.ts.map .scalar
  | .aScfdm => s.active.map fun a => .nat32 (boolWord a.scfdm)
  | .aCptype => s.active.bind fun a => a.cptype.map fun c => .nat32 (cpTypeWord c)
  | .aBps => s.active.map fun a => .nat32 (BitVec.ofNat 32 a.mod.bps)
  | .snrLin => s.snrLin.map .scalar
  | .fs => s.fs.map .scalar
  | .chtype => some (.nat32 (BitVec.ofNat 32 (channelType s.ch)))
  | .ntaps => some (.nat32 (BitVec.ofNat 32 s.tapCount))
  | .fd => s.profile.map fun p => .scalar p.fd
  | .chFs => s.chFs.map .scalar
  | .status => some (.nat32 s.statusWord)
  | .err => some (.nat32 s.err)
  | .lastErr => some (.nat32 s.lastErr)
  | .errCmd => some (.nat32 s.errCmd)
  | .serErrs => some (.nat32 s.serErrs)
  | .serTotal => some (.nat32 s.serTotal)
  | .psig => s.psig.map .scalar
  | .pnoise => s.pnoise.map .scalar
  | .phase => some (.nat32 (phaseWord s.phase))
  | .symCnt => some (.nat32 s.symCnt)

/-- The write of a control register (R128): `none` where the register is read-only, the item has not its kind, or the value
is not one the register takes. -/
def State.writeReg (r : Reg) (v : Item) (s : State) : Option State :=
  match r, v with
  | .sBw, .scalar x => some { s with staged := { s.staged with bw := some x } }
  | .sScs, .scalar x => some { s with staged := { s.staged with scs := some x } }
  | .sNfft, .nat32 x => some { s with staged := { s.staged with nfft := some x } }
  | .sNc, .nat32 x => some { s with staged := { s.staged with nc := some x } }
  | .sCplen, .nat32 x => some { s with staged := { s.staged with cplen := some x } }
  | .sMod, .nat32 x => some { s with staged := { s.staged with mod := some x } }
  | .sTs, .scalar x => some { s with staged := { s.staged with ts := some x } }
  | .sScfdm, .nat32 x => (boolOfWord x).map fun b => { s with staged := { s.staged with scfdm := b } }
  | .sCptype, .nat32 x => (cpTypeOfWord x).map fun c => { s with staged := { s.staged with cptype := some c } }
  | .snrLin, .scalar x => some { s with snrLin := some x }
  | .fs, .scalar x => some { s with fs := some x }
  | _, _ => none

end Sys2Proof.Machine
end

