-- ==== Sys2Proof/Machine/System.lean ====
section
/-! DEFINITION. The system and configuration commands: NOP, RESET, CLRERR, RDREG, WRREG, COMMIT (R122 to R133). -/

namespace Sys2Proof.Machine

/-- NOP (R122): responds. -/
def execNop (s : State) : Out := complete s

/-- RESET (R123): the whole block in the reset state of R42. -/
def execReset (s : State) : Out := complete s.resetBlock

/-- CLRERR (R124): clears the three error registers. -/
def execClrerr (s : State) : Out := complete { s with err := 0, lastErr := 0, errCmd := 0 }

/-- RDREG (R126): answers the register's value, and changes nothing. -/
def execRdreg (reg : BitVec 8) (s : State) : Out :=
  match Reg.ofNumber reg with
  | none => fail .illegalCommand (wordOf (.rdreg reg)) s
  | some r =>
    match s.readReg r with
    | none => fail .notConfigured (wordOf (.rdreg reg)) s
    | some v => .next (s.respond 0 (some v))

/-- Is this a write the spec gives no meaning: an `SNR_LIN` value not above 0 (R128 (f), R215 (c), U5)? The comparison is
`NUM.lt` (log 10). -/
def refusedWrite (r : Reg) (v : Item) : Bool :=
  match r, v with
  | .snrLin, .scalar x => !Config.num.lt Config.num.zero x
  | _, _ => false

/-- WRREG (R128). A reserved or read-only register, an illegal value, and an item of the wrong kind raise `IllegalCommand`. -/
def execWrreg (reg : BitVec 8) (v : Item) (s : State) : Out :=
  match Reg.ofNumber reg with
  | none => fail .illegalCommand (wordOf (.wrreg reg v)) s
  | some r =>
    match s.writeReg r v with
    | none => fail .illegalCommand (wordOf (.wrreg reg v)) s
    | some t => if refusedWrite r v then .refused .snrNotPositive else complete t

/-- The active configuration that COMMIT makes of the staged one, once its checks have passed (R130). -/
def newActive (num : NumSys Scalar) (enum : (m : Modulation) → Equiv.Perm (Fin (2 ^ m.bps)))
    (g : Staged) (nfft nc cplen : Word) (m : Modulation) : Active Scalar :=
  { bw := g.bw, scs := g.scs, ts := g.ts, cptype := g.cptype, nfft := nfft, nc := nc, cplen := cplen,
    scfdm := g.scfdm, mod := m, rom := points num m (enum m) }

/-- COMMIT (R130, R131): all checks first, then the whole active configuration, `A_BPS` and `ROM` at once; the working buffers
become unwritten (R132). -/
def execCommit (s : State) : Out :=
  match s.staged.nfft, s.staged.nc, s.staged.cplen, s.staged.mod with
  | some nfft, some nc, some cplen, some modId =>
    match Modulation.ofIdent modId with
    | none => fail .unsupportedModulation (wordOf .commit) s
    | some m =>
      if nfft = 0 ∨ nc = 0 ∨ nfft.toNat < nc.toNat then fail .configInvariant (wordOf .commit) s
      else complete { s with
        active := some (newActive Config.num Config.enum s.staged nfft nc cplen m), buf := Buffers.unwritten }
  | _, _, _, _ => fail .notConfigured (wordOf .commit) s

end Sys2Proof.Machine
end

