-- ==== Sys2Proof/Machine/Dispatch.lean ====
section
/-! DEFINITION. One arm per command. -/

namespace Sys2Proof.Machine

def exec (i : Instr) (s : State) : Host.Outcome State Fault Refusal :=
  match i with
  | .nop => Sys2Proof.Machine.execNop s
  | .reset => Sys2Proof.Machine.execReset s
  | .clrerr => Sys2Proof.Machine.execClrerr s
  | .rdreg reg => Sys2Proof.Machine.execRdreg reg s
  | .wrreg reg v => Sys2Proof.Machine.execWrreg reg v s
  | .commit => Sys2Proof.Machine.execCommit s
  | .enc n => Sys2Proof.Machine.execEnc n s
  | .dec n => Sys2Proof.Machine.execDec n s
  | .modsym => Sys2Proof.Machine.execModsym s
  | .modstr n => Sys2Proof.Machine.execModstr n s
  | .demsym n => Sys2Proof.Machine.execDemsym n s
  | .demstr n => Sys2Proof.Machine.execDemstr n s
  | .chsel t => Sys2Proof.Machine.execChsel t s
  | .profld taps fd => Sys2Proof.Machine.execProfld taps fd s
  | .fade n => Sys2Proof.Machine.execFade n s
  | .noise n => Sys2Proof.Machine.execNoise n s
  | .chtx n => Sys2Proof.Machine.execChtx n s
  | .det n => Sys2Proof.Machine.execDet n s
  | .ser a b => Sys2Proof.Machine.execSer a b s

end Sys2Proof.Machine
end

