-- ==== Sys2Proof/Machine/HostSide.lean ====
section
/-! DEFINITION. The host's turn: one action of the liberties of R297, taken while no command runs. -/

namespace Sys2Proof.Machine

/-- A held command is looked at again after a host action (R66: "a push by the host is what lifts the hold"). -/
def State.retry (s : State) : State :=
  { s with port := match s.port with
      | .held c => .issued c
      | p => p }

/-- Is a command on the port? -/
def State.commandPending (s : State) : Bool :=
  match s.port with
  | .idle => false
  | .issued _ | .held _ => true

/-- A host action that the liberties of R297 allow only under a condition, and under which it is refused without it (log 8). -/
def allowed (c : Bool) (r : Refusal) (k : Out) : Out := if c then k else .refused r

/-- Elements that enter `CI`: finite ones (R297, R306; log 27). -/
def intake (l : List Sample) (k : Out) : Out := allowed (l.all Cplx.isFinite) .nonFiniteValue k

/-- One host action (R297, R78). What is outside the liberties is refused by name (log 8). A reset takes effect while a command
is held, since a held command has not started (R66, R277, R281); the command stays on the port (log 29). -/
def hostAct (h : HostAction) (s : State) : Out :=
  match h with
  | .pushBits l => .next (State.retry { s with bi := s.bi ++ l })
  | .pushSamples l => intake l (.next (State.retry { s with ci := s.ci ++ l }))
  | .popBits n => allowed (n ≤ s.bo.length) .hostOverdraw (.next (State.retry { s with bo := s.bo.drop n }))
  | .popSamples n => allowed (n ≤ s.co.length) .hostOverdraw (.next (State.retry { s with co := s.co.drop n }))
  | .popNoise n => allowed (n ≤ s.no.length) .hostOverdraw (.next (State.retry { s with no := s.no.drop n }))
  | .xferBits n =>
    allowed (n ≤ s.bo.length) .hostOverdraw
      (.next (State.retry { s with bo := s.bo.drop n, bi := s.bi ++ s.bo.take n }))
  | .xferSamples n =>
    allowed (n ≤ s.co.length) .hostOverdraw
      (intake (s.co.take n) (.next (State.retry { s with co := s.co.drop n, ci := s.ci ++ s.co.take n })))
  | .issue c =>
    allowed (!s.commandPending) .overlappingCommand
      (allowed (c.payload.all Item.isFinite) .nonFiniteValue (.next { s with port := .issued c }))
  | .reset => .next (State.retry s.resetBlock)

/-- The host's turn: its next planned action. With none left, an idle block stays as it is (R299: finished), and a held
command is stuck (R66, R299, U11; log 7). -/
def hostTurn (s : State) : Out :=
  match s.script with
  | [] => if s.commandPending then .fault .starved else .next s
  | h :: rest => hostAct h { s with script := rest }

/-- An illegal command (R103): `IllegalCommand`, and no other effect. -/
def rejectCommand (w : Word) (s : State) : Out := fail .illegalCommand w s

/-- The state with a command issued on the port. -/
def State.issueCommand (c : Command) (s : State) : State := { s with port := .issued c }

end Sys2Proof.Machine
end

