-- ==== Sys2Proof/Machine/Step.lean ====
section
/-! DEFINITION. One step: the engine runs the command on the port to completion (R18, R75), or the host takes its turn. -/

namespace Sys2Proof.Machine

/-- A command that has been issued is decoded and executed in this step (R120); otherwise the host acts. -/
def step (s : State) : Host.Outcome State Fault Refusal :=
  match s.port with
  | .issued c =>
    match decode c with
    | .ok i => exec i s
    | .error _ => rejectCommand c.word s
  | .idle | .held _ => hostTurn s

/-- `s` with the command of a table word issued on the command port, where the next step takes its command from. -/
def State.withFetchWord (s : State) (_nbits w : Nat) : State := s.issueCommand (tableCommand w)

end Sys2Proof.Machine
end

