-- ==== Sys2Proof/Machine/Pseudo.lean ====
section
/-! DEFINITION. The pseudo-instructions of R107 to R112 as what they stand for: sequences of commands and host transfers. They have
no encoding and are not part of the hardware (D31); the host's plan is where such a sequence is put. -/

namespace Sys2Proof.Machine

/-- Issue the command that encodes an instruction. -/
def issueInstr (i : Instr) : HostAction := .issue (encode i)

/-- Write a register by name. -/
def writeCommand (r : Reg) (v : Item) : HostAction := issueInstr (.wrreg r.number v)

/-- `CONFIG N, Nc, cp, mod [, scfdm]` (R107). -/
def pseudoConfig (n nc cp mod : Word) (scfdm : Option Word) : List HostAction :=
  [writeCommand .sNfft (.nat32 n), writeCommand .sNc (.nat32 nc), writeCommand .sCplen (.nat32 cp),
   writeCommand .sMod (.nat32 mod)]
  ++ (scfdm.toList.map fun v => writeCommand .sScfdm (.nat32 v)) ++ [issueInstr .commit]

/-- `SETMOD mod` (R108). -/
def pseudoSetmod (mod : Word) : List HostAction := [writeCommand .sMod (.nat32 mod), issueInstr .commit]

/-- `SETSNR v` (R109). -/
def pseudoSetsnr (v : Scalar) : List HostAction := [writeCommand .snrLin (.scalar v)]

/-- `AWGN` (R110). -/
def pseudoAwgn : List HostAction := [issueInstr (.chsel 1)]

/-- `RAYLEIGH fs` (R110). -/
def pseudoRayleigh (fs : Scalar) : List HostAction := [writeCommand .fs (.scalar fs), issueInstr (.chsel 2)]

/-- `DETDEC n` (R111). -/
def pseudoDetdec (n : BitVec 24) : List HostAction := [issueInstr (.det n), .xferSamples n.toNat, issueInstr (.dec n)]

/-- `CNT_MAX` (R6, R94): the largest count of one N-format command. -/
def countMax : Nat := 2 ^ 24 - 1

/-- The counts of the fewest N-format commands that carry `total` elements between them, each count but the last the largest
multiple of `unit` that one command takes (U18). One command, as R112 has it, wherever one is enough, for 0 elements too. -/
def commandCounts (total unit : Nat) : List Nat :=
  let most := countMax / unit * unit
  (List.range (max 1 (ceilDiv total most))).map fun i => min most (total - i * most)

/-- The commands of one mnemonic that carry `total` elements between them. -/
def issueCounts (mk : BitVec 24 → Instr) (total unit : Nat) : List HostAction :=
  (commandCounts total unit).map fun c => issueInstr (mk (BitVec.ofNat 24 c))

/-- `TRANSMIT n, v` (R112) under an active configuration, up to the bits in `BO`, which the host pops. A count above `CNT_MAX`
is not one command's: the host splits (U18), CHTX and DEMSTR at OFDM symbols, DEC at any symbol (log 26). Where there is an OFDM
symbol to send and it alone is above `CNT_MAX` samples, no DEMSTR takes it and there is no such sequence of commands. -/
def pseudoTransmit (a : Active Scalar) (n : BitVec 24) (v : Scalar) : Option (List HostAction) :=
  let k := ceilDiv n.toNat a.bpo
  if k = 0 ∨ a.spo ≤ countMax then
    some (pseudoSetsnr v ++ [issueInstr (.modstr n), .xferSamples (k * a.spo)] ++
      issueCounts .chtx (k * a.spo) a.spo ++ [.xferSamples (k * a.spo)] ++
      issueCounts .demstr (k * a.spo) a.spo ++ [.xferSamples (k * a.nc.toNat)] ++
      issueCounts .dec (k * a.nc.toNat) 1 ++ [.popBits (k * a.bpo)])
  else none

end Sys2Proof.Machine
end

