-- ==== Sys2Proof/Machine/Exact.lean ====
section
/-! DEFINITION. `NUM_exact` (R8): the reference instance of the number system, over the real numbers. It is an
admissible value of the machine's open parameters (logs 1, 2; Laws/Carrier.lean); the laws the spec claims for the exact instance alone are
stated of the datapath functions at it (log 25). -/

namespace Sys2Proof

/-- A pair of reals as a complex number. -/
def Cplx.toComplex (z : Cplx ℝ) : ℂ := ⟨z.re, z.im⟩

/-- A complex number as a pair of reals. -/
def Cplx.ofComplex (z : ℂ) : Cplx ℝ := ⟨z.re, z.im⟩

/-- The kernel of both transforms: `exp_j(sign · 2π·k·m/n)` (R10, R12, R13). -/
noncomputable def twiddle (sign : ℝ) (n k m : ℕ) : ℂ :=
  Complex.exp (((sign * (2 * Real.pi * k * m / n) : ℝ) : ℂ) * Complex.I)

/-- The sum of R12 and R13 with its factor 1/√n, for one sign of the exponent (log 18). -/
noncomputable def exactTransform (sign : ℝ) (n : ℕ) (v : Vector (Cplx ℝ) n) : Vector (Cplx ℝ) n :=
  Vector.ofFn fun k : Fin n =>
    Cplx.ofComplex (((1 / √(n : ℝ) : ℝ) : ℂ) * ∑ m : Fin n, v[m].toComplex * twiddle sign n k m)

/-- The mean energy `E_M = 2(M-1)/3` of the unscaled grid (R11). -/
noncomputable def gridEnergy (m : Modulation) : ℝ := 2 * ((2 : ℝ) ^ m.bps - 1) / 3

/-- `NUM_exact` (R8), with the constellation scale of R11 and the transforms of R12 and R13. DESIGN CHOICE (log 31): `div` by 0 and
`invSqrtNat` of 0, for which R8 gives no value, are 0, the value of Lean's division. -/
noncomputable def NumSys.exact : NumSys ℝ where
  ofNat n := n
  add a b := a + b
  sub a b := a - b
  mul a b := a * b
  neg a := -a
  div a b := a / b
  lt a b := decide (a < b)
  eq a b := decide (a = b)
  invSqrtNat n := 1 / √(n : ℝ)
  cscale m := 1 / √(gridEnergy m)
  udft := exactTransform (-1)
  uidft := exactTransform 1

end Sys2Proof
end

