-- ==== Sys2Proof/Safety.lean ====
section
/-! DEFINITION. What counts as a safe run, in the terms the statements use: the invariants of the state, the frame relations, the
tables of queue use, and the properties of a number system that a law needs. -/

namespace Sys2Proof.Machine

/-! ### Invariants -/

/-- R26 and R28: an active configuration has 1 ≤ Nc ≤ N, and `ROM` holds the points of its modulation. -/
def ConfigInv (s : State) : Prop :=
  ∀ a, s.active = some a →
    1 ≤ a.nc.toNat ∧ a.nc.toNat ≤ a.nfft.toNat ∧ a.rom = points Config.num a.mod (Config.enum a.mod)

/-- R32, R33, R35, R128 (f): a fading filter's sampling rate is `CH_FS` and its profile copy the active profile; a profile has 1
to 255 taps; `SNR_LIN` is positive; `PSIG` and `PNOISE` are written together (R38). -/
def ChannelInv (s : State) : Prop :=
  (∀ f, s.ch = .rayleigh f → s.chFs = some f.fs ∧ f.profile = s.profile ∧ s.fs.isSome = true) ∧
  (∀ p, s.profile = some p → 1 ≤ p.taps.length ∧ p.taps.length ≤ 255) ∧
  (∀ v, s.snrLin = some v → Config.num.lt Config.num.zero v = true) ∧
  s.psig.isSome = s.pnoise.isSome

/-- R36, R37, R236: `ERR` has only bits 1 to 7; `LASTERR` is a code whose bit is set in `ERR`, or both are 0; the error count of
SER is at most its total, which is at most 4095. -/
def StatusInv (s : State) : Prop :=
  s.err &&& 0xFE = s.err ∧ s.lastErr.toNat ≤ 7 ∧ (s.lastErr = 0 ↔ s.err = 0) ∧
  (s.lastErr ≠ 0 → s.err.getLsbD s.lastErr.toNat = true) ∧
  s.serErrs.toNat ≤ s.serTotal.toNat ∧ s.serTotal.toNat ≤ 4095

/-- R30: between commands `PHASE` is `BITS` and `SYMIDX` is 0. -/
def SequencingInv (s : State) : Prop := s.phase = .bits ∧ s.symIdx = 0

/-- R306: no non-finite component stands in the input queue `CI`, and none in the payload of the command on the port. -/
def FiniteInv (s : State) : Prop :=
  s.ci.all Cplx.isFinite = true ∧
  ∀ c, s.port = .issued c ∨ s.port = .held c → c.payload.all Item.isFinite = true

/-- The invariant of the block. -/
def Inv (s : State) : Prop := ConfigInv s ∧ ChannelInv s ∧ StatusInv s ∧ SequencingInv s ∧ FiniteInv s

/-! ### Frame relations -/

/-- The staged registers, `SNR_LIN` and `FS` are the same. -/
def SameStaged (s t : State) : Prop := t.staged = s.staged ∧ t.snrLin = s.snrLin ∧ t.fs = s.fs

/-- The five queues are the same. -/
def SameQueues (s t : State) : Prop := t.bi = s.bi ∧ t.ci = s.ci ∧ t.bo = s.bo ∧ t.co = s.co ∧ t.no = s.no

/-- Apply a function to the state of a `next` outcome. -/
def mapNext (f : State → State) : Out → Out
  | .next s => .next (f s)
  | .fault r => .fault r
  | .refused r => .refused r

/-! ### Queue use by command (R65) -/

/-- A size of the active configuration, 0 when there is none. -/
def activeSize (f : Active Scalar → Nat) (s : State) : Nat :=
  match s.active with
  | none => 0
  | some a => f a

/-- How many bits a command pops from `BI` (R65, column "pops"). -/
def popsBi (s : State) (i : Instr) : Nat :=
  match i with
  | .enc n => n.toNat
  | .modstr n => n.toNat
  | .modsym => activeSize Active.bpo s
  | .nop | .reset | .clrerr | .rdreg _ | .wrreg _ _ | .commit | .dec _ | .demsym _ | .demstr _ | .chsel _
  | .profld _ _ | .fade _ | .noise _ | .chtx _ | .det _ | .ser _ _ => 0

/-- How many elements a command pops from `CI` (R65, column "pops"). -/
def popsCi : Instr → Nat
  | .dec n | .demsym n | .demstr n | .fade n | .noise n | .chtx n | .det n => n.toNat
  | .ser a b => a.toNat + b.toNat
  | .nop | .reset | .clrerr | .rdreg _ | .wrreg _ _ | .commit | .enc _ | .modsym | .modstr _ | .chsel _
  | .profld _ _ => 0

/-- How many bits a command pushes to `BO` (R65, column "pushes"). -/
def pushesBo (s : State) (i : Instr) : Nat :=
  match i with
  | .dec n => n.toNat * activeSize (fun a => a.mod.bps) s
  | .nop | .reset | .clrerr | .rdreg _ | .wrreg _ _ | .commit | .enc _ | .modsym | .modstr _ | .demsym _
  | .demstr _ | .chsel _ | .profld _ _ | .fade _ | .noise _ | .chtx _ | .det _ | .ser _ _ => 0

/-- How many elements a command pushes to `CO` (R65, column "pushes"). -/
def pushesCo (s : State) (i : Instr) : Nat :=
  match i with
  | .enc n => ceilDiv n.toNat (activeSize (fun a => a.mod.bps) s)
  | .modsym => activeSize Active.spo s
  | .modstr n => ceilDiv n.toNat (activeSize Active.bpo s) * activeSize Active.spo s
  | .demsym _ => activeSize (fun a => a.nc.toNat) s
  | .demstr n => ceilDiv n.toNat (activeSize Active.spo s) * activeSize (fun a => a.nc.toNat) s
  | .fade n | .noise n | .chtx n | .det n => n.toNat
  | .nop | .reset | .clrerr | .rdreg _ | .wrreg _ _ | .commit | .dec _ | .chsel _ | .profld _ _ | .ser _ _ => 0

/-- How many elements a command pushes to `NO` (R65, column "pushes"). -/
def pushesNo : Instr → Nat
  | .noise n | .chtx n => n.toNat
  | .nop | .reset | .clrerr | .rdreg _ | .wrreg _ _ | .commit | .enc _ | .dec _ | .modsym | .modstr _ | .demsym _
  | .demstr _ | .chsel _ | .profld _ _ | .fade _ | .det _ | .ser _ _ => 0

/-- `s` with as much input added to `BI` and `CI` as a command pops. -/
def padInput (i : Instr) (s : State) : State :=
  { s with
    bi := s.bi ++ List.replicate (popsBi s i) false
    ci := s.ci ++ List.replicate (popsCi i) Config.num.zeroSample }

/-- The checks of a command pass (R66, R259): with enough input it would answer 0. -/
def ChecksPass (i : Instr) (s : State) : Prop :=
  ∃ t, exec i (padInput i s) = .next t ∧ t.responses = s.responses ++ [⟨0, none⟩]

/-- The four transceiver commands, which presuppose cp < N (R160, R180). -/
def transceiver : Instr → Bool
  | .modsym | .modstr _ | .demsym _ | .demstr _ => true
  | .nop | .reset | .clrerr | .rdreg _ | .wrreg _ _ | .commit | .enc _ | .dec _ | .chsel _ | .profld _ _ | .fade _
  | .noise _ | .chtx _ | .det _ | .ser _ _ => false

/-- The commands of the channel unit (R200). -/
def channelCommand : Instr → Bool
  | .chsel _ | .profld _ _ | .fade _ | .noise _ | .chtx _ => true
  | .nop | .reset | .clrerr | .rdreg _ | .wrreg _ _ | .commit | .enc _ | .dec _ | .modsym | .modstr _ | .demsym _
  | .demstr _ | .det _ | .ser _ _ => false

/-- The commands of the codec, the transceiver and the detector, and COMMIT. -/
def linkCommand : Instr → Bool
  | .commit | .enc _ | .dec _ | .modsym | .modstr _ | .demsym _ | .demstr _ | .det _ | .ser _ _ => true
  | .nop | .reset | .clrerr | .rdreg _ | .wrreg _ _ | .chsel _ | .profld _ _ | .fade _ | .noise _ | .chtx _ => false

/-- A command repeated k times, for as long as each ends in a next state. -/
def repeatExec (i : Instr) : Nat → State → Out
  | 0, s => .next s
  | k + 1, s =>
    match exec i s with
    | .next t => repeatExec i k t
    | o => o

end Sys2Proof.Machine

namespace Sys2Proof

/-! ### The encoding, as R91, R99, R100 and R103 give it -/

/-- The opcodes of R99 that have format Z: `arg` must be 0. -/
def formatZ : List Nat := [0x00, 0x01, 0x02, 0x05, 0x20]

/-- The opcodes of R99 that have format R, C or L: `arg[23:8]` must be 0. -/
def formatByte : List Nat := [0x03, 0x04, 0x30, 0x31]

/-- The opcodes of R99 that have format N or P: every argument decodes. -/
def formatCount : List Nat := [0x10, 0x11, 0x21, 0x28, 0x29, 0x32, 0x33, 0x34, 0x40, 0x41]

/-- The kinds of the payload items a word calls for (R100). -/
def calledKinds (w : Word) : List Kind :=
  if (opField w).toNat = 0x04 then [kindOfReg (lowField w)]
  else if (opField w).toNat = 0x31 then List.replicate (2 * (lowField w).toNat + 1) .scalar
  else []

/-- The four grounds of R103. -/
def IllegalByRule (c : Command) : Prop :=
  (opField c.word).toNat ∉ formatZ ++ formatByte ++ formatCount ∨
  ((opField c.word).toNat ∈ formatZ ∧ argField c.word ≠ 0) ∨
  ((opField c.word).toNat ∈ formatByte ∧ midField c.word ≠ 0) ∨
  ((opField c.word).toNat = 0x31 ∧ lowField c.word = 0) ∨
  c.payload.map Item.kind ≠ calledKinds c.word

/-! ### Properties of a number system -/

variable {K : Type}

/-- `eq` is reflexive (R9 (a), R150). -/
def NumSys.EqReflexive (num : NumSys K) : Prop := ∀ x, num.eq x x = true

/-- `lt` is irreflexive (R9 (a), R150). -/
def NumSys.LtIrreflexive (num : NumSys K) : Prop := ∀ x, num.lt x x = false

/-- The comparison is a strict weak order, as every comparison of numbers is. -/
def NumSys.Ordered (num : NumSys K) : Prop :=
  num.LtIrreflexive ∧ (∀ x y z, num.lt x y = true → num.lt y z = true → num.lt x z = true) ∧
  (∀ x y z, num.lt x y = false → num.lt y z = false → num.lt x z = false)

/-- The entries of a table are told apart (R147: for r equal to an entry, the distance to that entry computes as the least, and
every other as greater). -/
def Separates {b : Nat} (num : NumSys K) (rom : Vector (Cplx K) (2 ^ b)) : Prop :=
  ∀ i j : BitVec b, i ≠ j →
    num.lt (num.distSq (romAt rom i) (romAt rom i)) (num.distSq (romAt rom i) (romAt rom j)) = true ∧
    num.lt (num.distSq (romAt rom i) (romAt rom j)) (num.distSq (romAt rom i) (romAt rom i)) = false

/-- Bit k of a sequence continued with zero bits (R71). -/
def bitAt (l : List Bit) (k : Nat) : Bit := l[k]?.getD false

/-- `index(c)` of R146 for the bps bits from position k on: the first the most significant. -/
def msbFirst (bps : Nat) (c : Nat → Bit) : Nat := ∑ t ∈ Finset.range bps, (c t).toNat * 2 ^ (bps - 1 - t)

/-! ### Observables of the exact instance -/

/-- `|z|²` (R10). -/
def magSq (z : Cplx ℝ) : ℝ := z.re ^ 2 + z.im ^ 2

/-- The energy of a sequence. -/
def energy (l : List (Cplx ℝ)) : ℝ := (l.map magSq).sum

/-- The mean power of a sequence (R172). -/
noncomputable def meanMagSq (o : List (Cplx ℝ)) : ℝ := energy o / o.length

/-- The peak-to-average power ratio of a sequence (R172). None for a sequence of zero mean power or with no sample: 0/0, on which
the source is silent and U7 says refuse (log 28). -/
noncomputable def papr (o : List (Cplx ℝ)) : Option ℝ :=
  if meanMagSq o = 0 then none else some ((o.map magSq).foldr max 0 / meanMagSq o)

/-- A ratio in decibels (R172). -/
noncomputable def inDecibels (r : ℝ) : ℝ := 10 * Real.logb 10 r

/-- `lvl(z)` (R149): the nearest of L levels, a midpoint going to the lower one, clamped to the outermost. -/
noncomputable def slicerLevel (L : ℕ) (z : ℝ) : ℤ := min (L - 1) (max 0 ⌈(z + L - 1) / 2 - 1 / 2⌉)

end Sys2Proof
end

