-- ==== Sys2Proof/Certificates/Slice0/Obligations.lean ====
section
/-! DEFINITION. The statements for the provers, from the numbered rules of the spec. -/

open Sys2Proof Sys2Proof.Machine

/-! ### Encoding and the step -/

/-- R91, R99, R100, R105: decoding the encoding of a well-formed instruction gives it back, every operand at every value. -/
def Obligations.DecodeOfEncode : Prop :=
  ∀ i : Instr, i.wellFormed = true → decode (encode i) = .ok i

/-- R103, R105: a command that decodes is the encoding of the well-formed instruction it decodes to, so no bit and no payload
item is ignored. -/
def Obligations.EncodeOfDecode : Prop :=
  ∀ (c : Command) (i : Instr), decode c = .ok i → i.wellFormed = true ∧ encode i = c

/-- R103: "A command is illegal when any of these holds", (a) to (d), and only then. -/
def Obligations.IllegalExactlyByRule : Prop :=
  ∀ c : Command, (∃ e, decode c = .error e) ↔ IllegalByRule c

/-- V1, V3 of the spec's vectors, words written out from R91 and R99: one word for each format. -/
def Obligations.SampleWordsDecode : Prop :=
  decode ⟨0x05000000, []⟩ = .ok .commit ∧
  decode ⟨0x03000030, []⟩ = .ok (.rdreg 0x30) ∧
  decode ⟨0x04000005, [.nat32 1]⟩ = .ok (.wrreg 0x05 (.nat32 1)) ∧
  decode ⟨0x10002710, []⟩ = .ok (.enc 10000) ∧
  decode ⟨0x30000001, []⟩ = .ok (.chsel 1) ∧
  (∀ d g e h f : Scalar, decode ⟨0x31000002, [.scalar d, .scalar g, .scalar e, .scalar h, .scalar f]⟩
    = .ok (.profld [⟨d, g⟩, ⟨e, h⟩] f)) ∧
  decode ⟨0x41FFF000, []⟩ = .ok (.ser 4095 0)

/-- R75, R120: a step that finds a command issued on the port which decodes to an instruction is the execution of that
instruction in that state, and nothing around it. -/
def Obligations.StepRunsIssuedCommand : Prop :=
  ∀ (s : State) (c : Command) (i : Instr), s.port = .issued c → decode c = .ok i → step s = exec i s

/-- R103, R256, R262: an illegal command raises IllegalCommand (code 5) and has no other effect; in particular it pops nothing. -/
def Obligations.StepRejectsIllegalCommand : Prop :=
  ∀ (s : State) (c : Command), s.port = .issued c → IllegalByRule c →
    step s = .next { s with
      err := s.err ||| 0x20, lastErr := 5, errCmd := c.word, port := .idle, responses := s.responses ++ [⟨5, none⟩] }

/-! ### System and configuration -/

/-- R122, R124: NOP only responds; CLRERR clears ERR, LASTERR and ERRCMD and changes nothing else. -/
def Obligations.NopAndClrerr : Prop :=
  ∀ s : State,
    exec .nop s = .next { s with port := .idle, responses := s.responses ++ [⟨0, none⟩] } ∧
    exec .clrerr s = .next { s with
      err := 0, lastErr := 0, errCmd := 0, port := .idle, responses := s.responses ++ [⟨0, none⟩] }

/-- R23, R42, R123, R280: the reset state and the state RESET leaves have every register at its reset value, no channel, no
profile, no configuration, no point set, unwritten buffers and empty queues. -/
def Obligations.ResetLeavesResetValues : Prop :=
  ∀ s : State, ∃ t, exec .reset s = .next t ∧ ∀ u ∈ [t, State.reset],
    (∀ r ∈ [Reg.sBw, .sScs, .sNfft, .sNc, .sCplen, .sMod, .sTs, .sCptype, .aBw, .aScs, .aNfft, .aNc, .aCplen, .aMod, .aTs,
        .aScfdm, .aCptype, .aBps, .snrLin, .fs, .fd, .chFs, .psig, .pnoise], u.readReg r = none) ∧
    (∀ r ∈ [Reg.sScfdm, .chtype, .ntaps, .status, .err, .lastErr, .errCmd, .serErrs, .serTotal, .phase, .symCnt],
        u.readReg r = some (.nat32 0)) ∧
    u.active = none ∧ u.profile = none ∧ u.ch = .none ∧
    u.buf.bbuf = none ∧ u.buf.dbuf = none ∧ u.buf.fbuf = none ∧ u.buf.tbuf = none ∧ u.buf.obuf = none ∧
    u.bi = [] ∧ u.ci = [] ∧ u.bo = [] ∧ u.co = [] ∧ u.no = []

/-- R126: RDREG answers the value of the register it names and has no side effect; a reserved number raises IllegalCommand
and an unwritten register NotConfigured. -/
def Obligations.RdregAnswersOrFails : Prop :=
  ∀ (s : State) (reg : BitVec 8),
    (∀ r v, r.number = reg → s.readReg r = some v →
      exec (.rdreg reg) s = .next { s with port := .idle, responses := s.responses ++ [⟨0, some v⟩] }) ∧
    (∀ r, r.number = reg → s.readReg r = none →
      exec (.rdreg reg) s = .next (s.raise .notConfigured (encode (.rdreg reg)).word)) ∧
    ((∀ r : Reg, r.number ≠ reg) → exec (.rdreg reg) s = .next (s.raise .illegalCommand (encode (.rdreg reg)).word))

/-- R63, R128: a legal WRREG completes: the register reads back the value, every other register but STATUS reads as before,
FS_VALID and SNR_VALID are the flags it can set, and nothing else of the block changes. A write of SNR_LIN does the same for a value
above 0 under NUM.lt, and is refused for every other value (log 10). -/
def Obligations.WrregWritesOneRegister : Prop :=
  ∀ s : State,
    (∀ (r : Reg) (v : Item), r.writable = true → r ≠ .snrLin → v.kind = r.kind →
      (r = .sScfdm ∨ r = .sCptype → v = .nat32 0 ∨ v = .nat32 1) →
      ∃ t, exec (.wrreg r.number v) s = .next t ∧ t.readReg r = some v ∧
        (∀ q, q ≠ r → q ≠ .status → t.readReg q = s.readReg q) ∧
        t.statusWord = s.statusWord ||| (if r = .fs then 4 else 0) ∧
        t = { s with staged := t.staged, fs := t.fs, port := .idle, responses := s.responses ++ [⟨0, none⟩] }) ∧
    ∀ x : Scalar, ∃ t,
      exec (.wrreg 0x20 (.scalar x)) s =
        (if Config.num.lt (Config.num.ofNat 0) x = true then .next t else .refused .snrNotPositive) ∧
      t.readReg .snrLin = some (.scalar x) ∧ (∀ q, q ≠ .snrLin → q ≠ .status → t.readReg q = s.readReg q) ∧
      t.statusWord = s.statusWord ||| 16 ∧
      t = { s with snrLin := some x, port := .idle, responses := s.responses ++ [⟨0, none⟩] }

/-- R104, R128: WRREG of a reserved number, of a read-only register, of an item of the wrong kind, or of a value other than 0
and 1 to S_SCFDM or S_CPTYPE raises IllegalCommand. -/
def Obligations.WrregIllegal : Prop :=
  ∀ (s : State) (reg : BitVec 8) (v : Item),
    ((∀ r : Reg, r.number ≠ reg) ∨
      ∃ r : Reg, r.number = reg ∧ (r.writable = false ∨ v.kind ≠ r.kind ∨
        ((r = .sScfdm ∨ r = .sCptype) ∧ v ≠ .nat32 0 ∧ v ≠ .nat32 1))) →
    exec (.wrreg reg v) s = .next (s.raise .illegalCommand (encode (.wrreg reg v)).word)

/-- R27, R130, R132: COMMIT of a legal staged configuration replaces the active configuration and the point set as one, sets
CFG_VALID, makes the working buffers unwritten, and touches nothing else. -/
def Obligations.CommitReplacesConfiguration : Prop :=
  ∀ (s : State) (nfft nc cplen : Word) (m : Modulation),
    s.staged.nfft = some nfft → s.staged.nc = some nc → s.staged.cplen = some cplen → s.staged.mod = some m.ident →
    1 ≤ nc.toNat → nc.toNat ≤ nfft.toNat →
    ∃ t, exec .commit s = .next t ∧
      t.readReg .aBw = s.readReg .sBw ∧ t.readReg .aScs = s.readReg .sScs ∧ t.readReg .aTs = s.readReg .sTs ∧
      t.readReg .aCptype = s.readReg .sCptype ∧ t.readReg .aScfdm = s.readReg .sScfdm ∧
      t.readReg .aNfft = some (.nat32 nfft) ∧ t.readReg .aNc = some (.nat32 nc) ∧
      t.readReg .aCplen = some (.nat32 cplen) ∧ t.readReg .aMod = s.readReg .sMod ∧
      t.readReg .aBps = some (.nat32 (BitVec.ofNat 32 (2 * (m.ident.toNat + 1)))) ∧
      (∀ a, t.active = some a → a.rom = points Config.num a.mod (Config.enum a.mod)) ∧
      t.statusWord = s.statusWord ||| 1 ∧
      t = { s with
        active := t.active, buf := Buffers.unwritten, port := .idle, responses := s.responses ++ [⟨0, none⟩] }

/-- R131: the errors of COMMIT in the order they are checked. -/
def Obligations.CommitErrorsInOrder : Prop :=
  ∀ s : State,
    (s.staged.nfft = none ∨ s.staged.nc = none ∨ s.staged.cplen = none ∨ s.staged.mod = none →
      exec .commit s = .next (s.raise .notConfigured 0x05000000)) ∧
    (∀ nfft nc cplen modId, s.staged.nfft = some nfft → s.staged.nc = some nc → s.staged.cplen = some cplen →
      s.staged.mod = some modId →
      (3 ≤ modId.toNat → exec .commit s = .next (s.raise .unsupportedModulation 0x05000000)) ∧
      (modId.toNat ≤ 2 → nfft = 0 ∨ nc = 0 ∨ nfft.toNat < nc.toNat →
        exec .commit s = .next (s.raise .configInvariant 0x05000000)))

/-- R133: "A failed COMMIT changes nothing but ERR, LASTERR, ERRCMD": the active configuration, A_BPS and ROM stay in force, CFG_VALID
stays as it was, and the staged registers keep the rejected values. -/
def Obligations.FailedCommitChangesNothing : Prop :=
  ∀ (s t : State) (c : Nat), exec .commit s = .next t → t.responses = s.responses ++ [⟨c, none⟩] → c ≠ 0 →
    t = { s with err := t.err, lastErr := t.lastErr, errCmd := t.errCmd, port := .idle, responses := t.responses } ∧
    t.cfgValid = s.cfgValid ∧ t.active = s.active ∧ t.readReg .aBps = s.readReg .aBps ∧ t.staged = s.staged

/-! ### Constellation codec -/

/-- R146: index(c) is the sum over t of c[t] · 2^(bps-1-t), for a chunk of length bps. -/
def Obligations.IndexIsMostSignificantFirst : Prop :=
  ∀ (bps : Nat) (c : List Bit), c.length = bps → (chunkIndex bps c).toNat = msbFirst bps (bitAt c)

/-- R145: ENC n with n bits in BI completes: it pops them, pushes to CO the ROM entry of each chunk of the zero-padded sequence, and
changes nothing else. -/
def Obligations.EncMapsChunks : Prop :=
  ∀ (s : State) (a : Active Scalar) (n : BitVec 24), s.active = some a → n.toNat ≤ s.bi.length →
    ∃ d, exec (.enc n) s = .next { s with
        bi := s.bi.drop n.toNat, co := s.co ++ d, port := .idle, responses := s.responses ++ [⟨0, none⟩] } ∧
      d.length = ceilDiv n.toNat a.mod.bps ∧
      ∀ j, j < d.length → ∃ i : BitVec a.mod.bps,
        i.toNat = msbFirst a.mod.bps (fun t => bitAt (s.bi.take n.toNat) (j * a.mod.bps + t)) ∧
        d[j]? = some (romAt a.rom i)

/-- R148: DEC n with n symbols in CI completes: it pops them, pushes to BO the bps bits of the nearest index of each, most
significant first, and changes nothing else. -/
def Obligations.DecEmitsNearestIndex : Prop :=
  ∀ (s : State) (a : Active Scalar) (n : BitVec 24), s.active = some a → n.toNat ≤ s.ci.length →
    ∃ o, exec (.dec n) s = .next { s with
        ci := s.ci.drop n.toNat, bo := s.bo ++ o, port := .idle, responses := s.responses ++ [⟨0, none⟩] } ∧
      o.length = n.toNat * a.mod.bps ∧
      ∀ j r, j < n.toNat → s.ci[j]? = some r → ∀ t, t < a.mod.bps →
        o[j * a.mod.bps + t]? = some ((nearest Config.num a.rom r).toNat.testBit (a.mod.bps - 1 - t))

/-- R147: under a comparison that is one of numbers, nearest(r) is the least index of least squared distance: no entry is nearer,
and every earlier entry is farther. -/
def Obligations.NearestIsFirstMinimum : Prop :=
  ∀ (K : Type) (num : NumSys K) (b : Nat) (rom : Vector (Cplx K) (2 ^ b)) (r : Cplx K), num.Ordered →
    ∀ j : BitVec b,
      num.lt (num.distSq r (romAt rom j)) (num.distSq r (romAt rom (nearest num rom r))) = false ∧
      (j.toNat < (nearest num rom r).toNat →
        num.lt (num.distSq r (romAt rom (nearest num rom r))) (num.distSq r (romAt rom j)) = true)

/-- R149: the closed form of nearest in the exact instance under the default enumeration: each axis sliced on its own. -/
def Obligations.NearestSlicesEachAxis : Prop :=
  ∀ (m : Modulation) (r : Cplx ℝ),
    ((nearest NumSys.exact (points NumSys.exact m (Equiv.refl _)) r).toNat : ℤ) =
      m.side * slicerLevel m.side (r.re / NumSys.exact.cscale m) + slicerLevel m.side (r.im / NumSys.exact.cscale m)

/-- R11, R142, R151: the exact point sets have unit mean energy under every enumeration, no point is 0, and the squared magnitudes lie
between 2·cscale² and 2·(L-1)²·cscale². -/
def Obligations.PointSetsHaveUnitEnergy : Prop :=
  ∀ (m : Modulation) (e : Equiv.Perm (Fin (2 ^ m.bps))),
    energy (points NumSys.exact m e).toList / 2 ^ m.bps = 1 ∧
    ∀ p ∈ (points NumSys.exact m e).toList,
      2 * NumSys.exact.cscale m ^ 2 ≤ magSq p ∧ magSq p ≤ 2 * (m.side - 1) ^ 2 * NumSys.exact.cscale m ^ 2 ∧ 0 < magSq p

/-- R150: DEC after ENC gives the bits back, padded to whole chunks, in every number system and for every table whose entries the
comparison tells apart; and the exact point sets are such tables under every enumeration. -/
def Obligations.CodecRoundTrip : Prop :=
  (∀ (K : Type) (num : NumSys K) (b : Nat) (rom : Vector (Cplx K) (2 ^ b)), 0 < b → Separates num rom →
    ∀ bits : List Bit,
      decodeSymbols num rom (encodeBits rom bits) =
        bits ++ List.replicate (ceilDiv bits.length b * b - bits.length) false) ∧
  (∀ (m : Modulation) (e : Equiv.Perm (Fin (2 ^ m.bps))), Separates NumSys.exact (points NumSys.exact m e))

/-! ### OFDM modulator -/

/-- R163: MODSYM with BPO bits in BI under cp < N completes: it pops them, pushes the OFDM symbol to CO, sets SYMCNT to 1, leaves the
stages in the working buffers (log 13), and changes nothing else. -/
def Obligations.ModsymModulatesOneSymbol : Prop :=
  ∀ (s : State) (a : Active Scalar), s.active = some a → a.cplen.toNat < a.nfft.toNat →
    a.nc.toNat * a.mod.bps ≤ s.bi.length →
    let o := ofdmMod Config.num a (s.bi.take (a.nc.toNat * a.mod.bps))
    exec .modsym s = .next { s with
      bi := s.bi.drop (a.nc.toNat * a.mod.bps), co := s.co ++ o.obuf, phase := .bits, symIdx := 0, symCnt := 1,
      buf := ⟨some o.bbuf, some o.dbuf, some o.fbuf, some o.tbuf, some o.obuf⟩,
      port := .idle, responses := s.responses ++ [⟨0, none⟩] }

/-- R170: MODSTR n with n bits in BI under cp < N completes: the bits are cut into K = ceil(n/BPO) groups, the last one continued with
zero bits; the OFDM symbols of the groups go to CO in order; SYMCNT is K modulo 2^32. The working buffers are left open, but for n = 0,
where they stay as they were (log 13). -/
def Obligations.ModstrModulatesStream : Prop :=
  ∀ (s : State) (a : Active Scalar) (n : BitVec 24), s.active = some a → 1 ≤ a.nc.toNat → a.nc.toNat ≤ a.nfft.toNat →
    a.cplen.toNat < a.nfft.toNat → n.toNat ≤ s.bi.length →
    ∃ d buf, exec (.modstr n) s = .next { s with
        bi := s.bi.drop n.toNat, co := s.co ++ d, phase := .bits, symIdx := 0,
        symCnt := BitVec.ofNat 32 (ceilDiv n.toNat a.bpo), buf := buf,
        port := .idle, responses := s.responses ++ [⟨0, none⟩] } ∧
      d.length = ceilDiv n.toNat a.bpo * a.spo ∧ (n = 0 → buf = s.buf) ∧
      ∀ i, i < ceilDiv n.toNat a.bpo →
        slice d a.spo i =
          (ofdmMod Config.num a
            ((List.range a.bpo).map fun u => bitAt (s.bi.take n.toNat) (i * a.bpo + u))).obuf

/-- R161, R162, R164, R165, R166: the stages of one OFDM symbol in every number system: the symbols of the bit chunks, precoded by the
forward transform with SC-FDM on, the bins, the core block and the prefix, with their lengths. -/
def Obligations.OfdmModStages : Prop :=
  ∀ (K : Type) (num : NumSys K) (a : Active K) (b : List Bit), b.length = a.bpo → a.nc.toNat ≤ a.nfft.toNat →
    a.cplen.toNat < a.nfft.toNat →
    let o := ofdmMod num a b
    o.bbuf = b ∧ o.dbuf.length = a.nc.toNat ∧ o.fbuf.length = a.nfft.toNat ∧ o.tbuf.length = a.nfft.toNat ∧
    o.obuf.length = a.nfft.toNat + a.cplen.toNat ∧
    (∃ d : List (Cplx K), d.length = a.nc.toNat ∧
      (∀ j, j < a.nc.toNat → ∃ i : BitVec a.mod.bps,
        i.toNat = msbFirst a.mod.bps (fun t => bitAt b (j * a.mod.bps + t)) ∧ d[j]? = some (romAt a.rom i)) ∧
      (a.scfdm = false → o.dbuf = d) ∧ (a.scfdm = true → o.dbuf = num.forward d)) ∧
    (∀ k, k < a.nfft.toNat → o.fbuf[k]? = if k < a.nc.toNat then o.dbuf[k]? else some ⟨num.ofNat 0, num.ofNat 0⟩) ∧
    o.tbuf = num.inverse o.fbuf ∧
    (∀ q, q < a.cplen.toNat → o.obuf[q]? = o.tbuf[a.nfft.toNat - a.cplen.toNat + q]?) ∧
    (∀ m, m < a.nfft.toNat → o.obuf[a.cplen.toNat + m]? = o.tbuf[m]?)

/-- R168: the first cp samples of every OFDM symbol that MODSYM or MODSTR produces equal the last cp samples of its core block, in
every number system. -/
def Obligations.CyclicPrefixLaw : Prop :=
  ∀ (K : Type) (num : NumSys K) (a : Active K) (b : List Bit), a.nc.toNat ≤ a.nfft.toNat → a.cplen.toNat < a.nfft.toNat →
    (∀ q, q < a.cplen.toNat → (ofdmMod num a b).obuf[q]? = (ofdmMod num a b).obuf[a.nfft.toNat + q]?) ∧
    (∀ i q, i < ceilDiv b.length a.bpo → q < a.cplen.toNat →
      (modStream num a b)[i * a.spo + q]? = (modStream num a b)[i * a.spo + (a.nfft.toNat + q)]? ∧
      i * a.spo + (a.nfft.toNat + q) < (modStream num a b).length)

/-- R163 (b), R182 (d): in every state with an active configuration MODSYM is exactly MODSTR BPO, and for 0 < n ≤ SPO DEMSYM n is exactly
DEMSTR n. -/
def Obligations.SymbolCommandsAreStreamCommands : Prop :=
  ∀ (s : State) (a : Active Scalar) (n : BitVec 24), s.active = some a → 1 ≤ a.nc.toNat →
    (n.toNat = a.nc.toNat * a.mod.bps → exec .modsym s = exec (.modstr n) s) ∧
    (0 < n.toNat → n.toNat ≤ a.nfft.toNat + a.cplen.toNat → exec (.demsym n) s = exec (.demstr n) s)

/-- R171: the output of MODSTR n is the concatenation of the outputs of K MODSYM commands fed with the successive BPO-bit groups of
the padded input. -/
def Obligations.ModstrIsModsymRepeated : Prop :=
  ∀ (s : State) (a : Active Scalar) (n : BitVec 24), s.active = some a → 1 ≤ a.nc.toNat →
    a.cplen.toNat < a.nfft.toNat → n.toNat ≤ s.bi.length →
    ∃ t u, repeatExec .modsym (ceilDiv n.toNat a.bpo)
        { s with bi := s.bi.take n.toNat ++ List.replicate (ceilDiv n.toNat a.bpo * a.bpo - n.toNat) false } = .next t ∧
      exec (.modstr n) s = .next u ∧ t.co = u.co ∧ t.bi = [] ∧ u.bi = s.bi.drop n.toNat

/-- R175: with SC-FDM on and Nc = N the exact core block is the constellation symbols themselves. -/
def Obligations.ScfdmFullBandIsIdentity : Prop :=
  ∀ (a : Active ℝ) (b : List Bit), a.scfdm = true → a.nc = a.nfft → 1 ≤ a.nfft.toNat →
    (ofdmMod NumSys.exact a b).tbuf = mapChunks a.rom a.nc.toNat b

/-- R169, R172, R173: the PAPR of every sequence of non-zero mean power is at least 1, equivalently at least 0 dB, with equality
exactly when all samples have the same magnitude; and every OFDM symbol that the exact modulator makes of an exact point set has non-zero
mean power. (For zero mean power there is no ratio: log 28.) -/
def Obligations.PaprAtLeastOne : Prop :=
  (∀ o : List (Cplx ℝ), meanMagSq o ≠ 0 → ∃ p, papr o = some p ∧
    1 ≤ p ∧ 0 ≤ inDecibels p ∧ (1 ≤ p ↔ 0 ≤ inDecibels p) ∧ (p = 1 ↔ ∀ x ∈ o, ∀ y ∈ o, magSq x = magSq y)) ∧
  ∀ (a : Active ℝ) (e : Equiv.Perm (Fin (2 ^ a.mod.bps))) (b : List Bit), 1 ≤ a.nc.toNat → a.nc.toNat ≤ a.nfft.toNat →
    a.cplen.toNat < a.nfft.toNat → a.rom = points NumSys.exact a.mod e →
    meanMagSq (ofdmMod NumSys.exact a b).obuf ≠ 0

/-! ### OFDM demodulator -/

/-- R182: DEMSYM n with n ≤ SPO samples in CI under cp < N completes: it pops them, pushes the Nc symbols of the chunk, sets SYMCNT to
1, leaves the stages in the working buffers (BBUF as it was; log 13), and changes nothing else; n > SPO raises IllegalCommand, whatever
cp is (log 9). -/
def Obligations.DemsymDemodulatesOneChunk : Prop :=
  ∀ (s : State) (a : Active Scalar) (n : BitVec 24), s.active = some a →
    (n.toNat ≤ a.nfft.toNat + a.cplen.toNat → a.cplen.toNat < a.nfft.toNat → n.toNat ≤ s.ci.length →
      let o := ofdmDemod Config.num a (s.ci.take n.toNat)
      exec (.demsym n) s = .next { s with
        ci := s.ci.drop n.toNat, co := s.co ++ o.dbuf, phase := .bits, symIdx := 0, symCnt := 1,
        buf := ⟨s.buf.bbuf, some o.dbuf, some o.fbuf, some o.tbuf, some o.obuf⟩,
        port := .idle, responses := s.responses ++ [⟨0, none⟩] }) ∧
    (a.nfft.toNat + a.cplen.toNat < n.toNat →
      exec (.demsym n) s = .next (s.raise .illegalCommand (encode (.demsym n)).word))

/-- R186, R187: DEMSTR n with n samples in CI under cp < N completes: chunks of SPO samples counted from the first, the last perhaps
short; the symbols of the chunks go to CO in order; SYMCNT is K modulo 2^32. The working buffers are left open, but that BBUF stays, and
all of them for n = 0 (log 13). -/
def Obligations.DemstrDemodulatesStream : Prop :=
  ∀ (s : State) (a : Active Scalar) (n : BitVec 24), s.active = some a → a.nc.toNat ≤ a.nfft.toNat →
    a.cplen.toNat < a.nfft.toNat → n.toNat ≤ s.ci.length →
    ∃ d buf, exec (.demstr n) s = .next { s with
        ci := s.ci.drop n.toNat, co := s.co ++ d, phase := .bits, symIdx := 0,
        symCnt := BitVec.ofNat 32 (ceilDiv n.toNat a.spo), buf := buf,
        port := .idle, responses := s.responses ++ [⟨0, none⟩] } ∧
      d.length = ceilDiv n.toNat a.spo * a.nc.toNat ∧ (n = 0 → buf = s.buf) ∧ buf.bbuf = s.buf.bbuf ∧
      ∀ i, i < ceilDiv n.toNat a.spo →
        slice d a.nc.toNat i = (ofdmDemod Config.num a (slice (s.ci.take n.toNat) a.spo i)).dbuf

/-- R181, R183, R184: the stages of one sample chunk in every number system: zero samples at its end, the prefix dropped, the forward
transform, the first Nc bins. -/
def Obligations.OfdmDemodStages : Prop :=
  ∀ (K : Type) (num : NumSys K) (a : Active K) (x : List (Cplx K)), x.length ≤ a.nfft.toNat + a.cplen.toNat →
    a.nc.toNat ≤ a.nfft.toNat →
    let o := ofdmDemod num a x
    o.obuf.length = a.nfft.toNat + a.cplen.toNat ∧ o.dbuf.length = a.nc.toNat ∧
    (∀ q, q < a.nfft.toNat + a.cplen.toNat →
      o.obuf[q]? = if q < x.length then x[q]? else some ⟨num.ofNat 0, num.ofNat 0⟩) ∧
    (∀ m, m < a.nfft.toNat → o.tbuf[m]? = o.obuf[a.cplen.toNat + m]?) ∧ o.tbuf.length = a.nfft.toNat ∧
    o.fbuf = num.forward o.tbuf ∧
    (a.scfdm = false → ∀ k, k < a.nc.toNat → o.dbuf[k]? = o.fbuf[k]?) ∧
    (a.scfdm = true → o.dbuf = num.inverse (o.fbuf.take a.nc.toNat))

/-- R14: in the exact instance the two transforms undo each other, preserve energy, are linear, and are the identity for n = 1; for
either choice of the exponent's sign. -/
def Obligations.ExactTransformLaws : Prop :=
  ∀ σ : ℝ, σ = 1 ∨ σ = -1 → ∀ n : ℕ, 1 ≤ n → ∀ v w : Vector (Cplx ℝ) n,
    exactTransform (-σ) n (exactTransform σ n v) = v ∧
    energy (exactTransform σ n v).toList = energy v.toList ∧
    (∀ x y : ℂ, exactTransform σ n
        (Vector.ofFn fun i : Fin n => Cplx.ofComplex (x * v[i].toComplex + y * w[i].toComplex)) =
      Vector.ofFn fun i : Fin n =>
        Cplx.ofComplex (x * (exactTransform σ n v)[i].toComplex + y * (exactTransform σ n w)[i].toComplex)) ∧
    (n = 1 → exactTransform σ n v = v)

/-- R188: in the exact instance, DEMSTR of the samples that MODSTR pushed gives back the constellation symbols of the padded bits, SC-FDM
on or off, and DEC of them the padded bits. -/
def Obligations.LinkRoundTrip : Prop :=
  ∀ (a : Active ℝ) (e : Equiv.Perm (Fin (2 ^ a.mod.bps))) (b : List Bit), 1 ≤ a.nc.toNat → a.nc.toNat ≤ a.nfft.toNat →
    a.cplen.toNat < a.nfft.toNat →
    demStream NumSys.exact a (modStream NumSys.exact a b) =
      mapChunks a.rom (ceilDiv b.length a.bpo * a.nc.toNat) (padBits (ceilDiv b.length a.bpo * a.bpo) b) ∧
    (a.rom = points NumSys.exact a.mod e →
      decodeSymbols NumSys.exact a.rom (demStream NumSys.exact a (modStream NumSys.exact a b)) =
        padBits (ceilDiv b.length a.bpo * a.bpo) b)

/-- R190: ofdm_demod is additive in its chunk in the exact instance: the symbols of x + w are those of x plus those of w. -/
def Obligations.DemodulatorIsAdditive : Prop :=
  ∀ (a : Active ℝ) (x w : List (Cplx ℝ)), x.length = w.length → x.length ≤ a.spo → a.nc.toNat ≤ a.nfft.toNat →
    (ofdmDemod NumSys.exact a (List.zipWith NumSys.exact.addSample x w)).dbuf =
      List.zipWith NumSys.exact.addSample (ofdmDemod NumSys.exact a x).dbuf (ofdmDemod NumSys.exact a w).dbuf

/-! ### Channel unit -/

/-- R121, R201: CHSEL 1 selects an AWGN channel; CHSEL 2 with FS written builds a multipath channel from FS and the kept profile and
records the rate in CH_FS; both set CH_VALID and change nothing else. That CHSEL 1 keeps CH_FS is read from R121 (log 15). -/
def Obligations.ChselBuildsChannel : Prop :=
  ∀ s : State,
    (∃ t, exec (.chsel 1) s = .next t ∧ t.readReg .chtype = some (.nat32 1) ∧ t.statusWord = s.statusWord ||| 2 ∧
      t = { s with ch := .awgn, port := .idle, responses := s.responses ++ [⟨0, none⟩] }) ∧
    (∀ f, s.fs = some f → ∃ t, exec (.chsel 2) s = .next t ∧ t.readReg .chtype = some (.nat32 2) ∧
      t.readReg .chFs = s.readReg .fs ∧ t.statusWord = s.statusWord ||| 2 ∧
      t = { s with
        ch := .rayleigh ⟨f, s.profile⟩, chFs := some f, port := .idle, responses := s.responses ++ [⟨0, none⟩] })

/-- R253, R254, R255: CHSEL 2 raises MissingSampleRateError while FS is unwritten, and CHSEL 1 needs no sampling rate; CHSEL raises
UnknownChannelTypeError for every t other than 1 and 2; SER raises DataShapeError when its two counts differ, whatever is in CI. -/
def Obligations.NamedErrorsOfChselAndSer : Prop :=
  ∀ (s : State) (t : BitVec 8) (a b : BitVec 12),
    (s.fsValid = false → exec (.chsel 2) s = .next (s.raise .missingSampleRate 0x30000002)) ∧
    (∃ u, exec (.chsel 1) s = .next u ∧ u.err = s.err) ∧
    (t ≠ 1 → t ≠ 2 → exec (.chsel t) s = .next (s.raise .unknownChannelType (encode (.chsel t)).word)) ∧
    (a ≠ b → exec (.ser a b) s = .next { s with
      err := s.err ||| 0x10, lastErr := 4, errCmd := (encode (.ser a b)).word, port := .idle,
      responses := s.responses ++ [⟨4, none⟩] })

/-- R204: PROFLD replaces the profile whole, sets PROF_VALID, and replaces the delay and gain state of an existing filter, whose
sampling rate stays (log 30); any other channel object stays. -/
def Obligations.ProfldReplacesProfile : Prop :=
  ∀ (s : State) (taps : List Tap) (fd : Scalar), 1 ≤ taps.length → taps.length ≤ 255 →
    ∃ t, exec (.profld taps fd) s = .next t ∧ t.profile = some ⟨taps, fd⟩ ∧
      t.readReg .ntaps = some (.nat32 (BitVec.ofNat 32 taps.length)) ∧ t.readReg .fd = some (.scalar fd) ∧
      t.statusWord = s.statusWord ||| 8 ∧
      ((∃ f, s.ch = .rayleigh f ∧ t.ch = .rayleigh ⟨f.fs, some ⟨taps, fd⟩⟩) ∨
        ((∀ f, s.ch ≠ .rayleigh f) ∧ t.ch = s.ch)) ∧
      t = { s with profile := t.profile, ch := t.ch, port := .idle, responses := s.responses ++ [⟨0, none⟩] }

/-- R208, R209: FADE n on a multipath channel with a profile completes: it pops n samples, pushes n values that are not determined, and
writes no register. The draw count, one more when n is not 0, is the model's own (log 4). -/
def Obligations.FadeKeepsLength : Prop :=
  ∀ (s : State) (f : Filter) (p : Profile) (r : Scalar) (n : BitVec 24), s.ch = .rayleigh f → s.profile = some p →
    s.chFs = some r → n.toNat ≤ s.ci.length →
    ∃ y, exec (.fade n) s = .next { s with
        ci := s.ci.drop n.toNat, co := s.co ++ y, draws := if n = 0 then s.draws else s.draws + 1,
        port := .idle, responses := s.responses ++ [⟨0, none⟩] } ∧
      y.length = n.toNat

/-- R79, R212, R214, R215: NOISE n on a channel with an SNR completes. For n ≥ 1 it records the mean power P and Pn = P / SNR_LIN, pushes
the n noise values to NO and x + w to CO; the noise is zero when Pn is 0. For n = 0 nothing is pushed or written. The draw count is the
model's own (log 5), and the order of the sum in P its choice (log 11). -/
def Obligations.NoiseAddsDraw : Prop :=
  ∀ (s : State) (snr : Scalar) (n : BitVec 24), s.ch ≠ .none → s.snrLin = some snr → n.toNat ≤ s.ci.length →
    let x := s.ci.take n.toNat
    let p := Config.num.meanPower x
    (n = 0 → exec (.noise n) s = .next { s with port := .idle, responses := s.responses ++ [⟨0, none⟩] }) ∧
    (n ≠ 0 → ∃ w, exec (.noise n) s = .next { s with
        ci := s.ci.drop n.toNat, co := s.co ++ List.zipWith Config.num.addSample x w, no := s.no ++ w,
        psig := some p, pnoise := some (Config.num.div p snr), draws := s.draws + 1,
        port := .idle, responses := s.responses ++ [⟨0, none⟩] } ∧
      w.length = n.toNat ∧ (Config.num.eq (Config.num.div p snr) (Config.num.ofNat 0) = true → w = Config.num.zeros n.toNat))

/-- R212, R215 (a): the exact mean power is the sum of the squared magnitudes over n, and it is 0 exactly for an all-zero signal, where
the noise power is 0 too.
At snr = 0, which the noise step never sees (R215 (c)), that quotient is the model's choice (log 31). -/
def Obligations.ExactMeanPower : Prop :=
  ∀ (x : List (Cplx ℝ)) (snr : ℝ), x ≠ [] →
    NumSys.exact.meanPower x = meanMagSq x ∧
    (NumSys.exact.meanPower x = 0 ↔ x = NumSys.exact.zeros x.length) ∧
    NumSys.exact.div (NumSys.exact.meanPower (NumSys.exact.zeros x.length)) snr = 0

/-- R216: CHTX n under AWGN is exactly NOISE n; under multipath it completes with a fading draw f of the input's length, the noise
step on f, and the power reference that of f, and for n = 0 it only responds. The draw count is the model's own (logs 4, 5). -/
def Obligations.ChtxTransmits : Prop :=
  ∀ (s : State) (snr : Scalar) (n : BitVec 24), s.snrLin = some snr →
    (s.ch = .awgn → exec (.chtx n) s = exec (.noise n) s) ∧
    (∀ g p r, s.ch = .rayleigh g → s.profile = some p → s.chFs = some r → n = 0 →
      exec (.chtx n) s = .next { s with port := .idle, responses := s.responses ++ [⟨0, none⟩] }) ∧
    (∀ g p r, s.ch = .rayleigh g → s.profile = some p → s.chFs = some r → n.toNat ≤ s.ci.length → n ≠ 0 →
      ∃ f w, exec (.chtx n) s = .next { s with
          ci := s.ci.drop n.toNat, co := s.co ++ List.zipWith Config.num.addSample f w, no := s.no ++ w,
          psig := some (Config.num.meanPower f), pnoise := some (Config.num.div (Config.num.meanPower f) snr),
          draws := s.draws + 2, port := .idle, responses := s.responses ++ [⟨0, none⟩] } ∧
        f.length = n.toNat ∧ w.length = n.toNat ∧
        (Config.num.eq (Config.num.div (Config.num.meanPower f) snr) (Config.num.ofNat 0) = true →
          w = Config.num.zeros n.toNat))

/-- R78, R216 (b): with a multipath channel, CHTX n is exactly FADE n, a transfer of the n outputs back to CI, and NOISE n. The host's
transfer is that transfer where the fading output is finite (log 27). That the two runs get the same oracle answers is the model's choice
of numbering the draws (logs 4, 5). -/
def Obligations.ChtxIsFadeThenNoise : Prop :=
  ∀ (s : State) (snr : Scalar) (g : Filter) (p : Profile) (r : Scalar) (n : BitVec 24), s.snrLin = some snr →
    s.ch = .rayleigh g → s.profile = some p → s.chFs = some r → s.ci.length = n.toNat → s.co = [] →
    ∃ t v w, exec (.fade n) s = .next t ∧ t.co.length = n.toNat ∧
      (t.co.all Cplx.isFinite = true → hostAct (.xferSamples n.toNat) t = .next { t with co := [], ci := t.co }) ∧
      exec (.noise n) { t with co := [], ci := t.co } = .next v ∧ exec (.chtx n) s = .next w ∧
      v.ci = w.ci ∧ v.co = w.co ∧ v.no = w.no ∧ v.psig = w.psig ∧ v.pnoise = w.pnoise ∧ v.draws = w.draws

/-- R33, R132, R200: the channel unit and the link configuration are independent: a channel command does the same whatever the active and
staged configuration and leaves them, and a codec, transceiver, detector or COMMIT command does the same whatever the channel state and leaves
it. That a draw does not depend on the configuration either is the model's choice (logs 4, 5). -/
def Obligations.ChannelAndLinkIndependent : Prop :=
  ∀ (i : Instr) (s : State),
    (channelCommand i = true → ∀ (act : Option (Active Scalar)) (g : Staged),
      exec i { s with active := act, staged := g } = mapNext (fun t => { t with active := act, staged := g }) (exec i s)) ∧
    (linkCommand i = true → ∀ (c : Channel) (p : Option Profile) (f h v : Option Scalar),
      exec i { s with ch := c, profile := p, fs := f, chFs := h, snrLin := v } =
        mapNext (fun t => { t with ch := c, profile := p, fs := f, chFs := h, snrLin := v }) (exec i s))

/-! ### Symbol detector -/

/-- R231, R232 (a): DET n with n symbols in CI completes: it pops them and pushes the nearest ROM entry of each, read from the table. -/
def Obligations.DetPushesRomEntries : Prop :=
  ∀ (s : State) (a : Active Scalar) (n : BitVec 24), s.active = some a → n.toNat ≤ s.ci.length →
    ∃ q, exec (.det n) s = .next { s with
        ci := s.ci.drop n.toNat, co := s.co ++ q, port := .idle, responses := s.responses ++ [⟨0, none⟩] } ∧
      q.length = n.toNat ∧ (∀ z ∈ q, z ∈ a.rom.toList) ∧
      ∀ j r, j < n.toNat → s.ci[j]? = some r → q[j]? = some (romAt a.rom (nearest Config.num a.rom r))

/-- R235, R236: SER a, a with 2a symbols in CI completes: it pops them and records the count of unequal pairs, at most a, and the
total a. -/
def Obligations.SerCountsErrors : Prop :=
  ∀ (s : State) (a : BitVec 12), 2 * a.toNat ≤ s.ci.length →
    ∃ k, exec (.ser a a) s = .next { s with
        ci := s.ci.drop (2 * a.toNat), serErrs := BitVec.ofNat 32 k, serTotal := BitVec.ofNat 32 a.toNat,
        port := .idle, responses := s.responses ++ [⟨0, none⟩] } ∧
      k ≤ a.toNat ∧
      k = (List.range a.toNat).countP fun i =>
        match s.ci[i]?, s.ci[a.toNat + i]? with
        | some x, some y => !(Config.num.eq x.re y.re && Config.num.eq x.im y.im)
        | _, _ => false

/-- R232 (b), R234: for a table whose entries the comparison tells apart, DET is idempotent, and DET then DEC gives the same bits as
DEC. -/
def Obligations.DetThenDecIsDec : Prop :=
  ∀ (K : Type) (num : NumSys K) (b : Nat) (rom : Vector (Cplx K) (2 ^ b)), Separates num rom → ∀ r : List (Cplx K),
    detectSymbols num rom (detectSymbols num rom r) = detectSymbols num rom r ∧
    decodeSymbols num rom (detectSymbols num rom r) = decodeSymbols num rom r

/-! ### Errors, holds and refusals -/

/-- R140, R160, R180, R208, R212, R216, R230: every command of the codec, the transceiver, the channel and the detector that needs state
nothing has written raises NotConfigured, whether or not its input is there. -/
def Obligations.UnconfiguredCommandsFail : Prop :=
  ∀ (s : State) (n : BitVec 24),
    (s.cfgValid = false → ∀ i ∈ [Instr.enc n, .dec n, .modsym, .modstr n, .demsym n, .demstr n, .det n],
      exec i s = .next (s.raise .notConfigured (encode i).word)) ∧
    ((∀ f, s.ch ≠ .rayleigh f) ∨ s.profValid = false →
      exec (.fade n) s = .next (s.raise .notConfigured (encode (.fade n)).word)) ∧
    (s.ch = .none ∨ s.snrValid = false → ∀ i ∈ [Instr.noise n, .chtx n],
      exec i s = .next (s.raise .notConfigured (encode i).word)) ∧
    (∀ f, s.ch = .rayleigh f → s.profValid = false →
      exec (.chtx n) s = .next (s.raise .notConfigured (encode (.chtx n)).word))

/-- R66: a command whose checks pass and whose input is not all there is held: it stays on the port and nothing else changes (the port is
log 6). -/
def Obligations.ShortInputIsHeld : Prop :=
  ∀ (s : State) (c : Command) (i : Instr), s.port = .issued c → decode c = .ok i → ChecksPass i s →
    s.bi.length < popsBi s i ∨ s.ci.length < popsCi i → step s = .next { s with port := .held c }

/-- R65, R66, R300: "a push by the host is what lifts the hold": any command that pops, held for want of bits or of samples, runs once a
push of bits, or of finite samples (log 27), has completed its input; it pops its count and answers. The host's plan and the second look
at the held command are the model's own (logs 6, 7). -/
def Obligations.PushLiftsHold : Prop :=
  ∀ (s : State) (c : Command) (i : Instr) (b : List Bit) (x : List Sample) (rest : List HostAction),
    decode c = .ok i → s.port = .held c → ChecksPass i s → 0 < popsBi s i + popsCi i →
    (s.script = .pushBits b :: rest ∧ x = []) ∨ (s.script = .pushSamples x :: rest ∧ b = [] ∧ x.all Cplx.isFinite = true) →
    popsBi s i ≤ (s.bi ++ b).length → popsCi i ≤ (s.ci ++ x).length →
    ∃ t u, step s = .next t ∧ step t = .next u ∧ u.port = .idle ∧ u.script = rest ∧
      u.bi = (s.bi ++ b).drop (popsBi s i) ∧ u.ci = (s.ci ++ x).drop (popsCi i) ∧ u.responses = s.responses ++ [⟨0, none⟩]

/-- R251, R259, R262, R264: a command that answers a code other than 0 has done exactly what raise does: the code's bit is set in ERR,
LASTERR is the code, ERRCMD is the command's word, and nothing else has changed. -/
def Obligations.ErrorsArePrecise : Prop :=
  ∀ (i : Instr) (s t : State) (c : Nat) (d : Option Item), exec i s = .next t →
    t.responses = s.responses ++ [⟨c, d⟩] → c ≠ 0 →
    1 ≤ c ∧ c ≤ 7 ∧ d = none ∧
    t = { s with
      err := s.err ||| (1#32 <<< c), lastErr := BitVec.ofNat 32 c, errCmd := (encode i).word, port := .idle,
      responses := s.responses ++ [⟨c, none⟩] }

/-- R36, R68: a command either answers once and frees the port, or is held with nothing else changed; a successful one leaves ERR, LASTERR
and ERRCMD alone unless it is RESET or CLRERR; ERR never loses a bit to any other command. -/
def Obligations.EveryCommandAnswersOnceOrHolds : Prop :=
  ∀ (i : Instr) (s t : State), exec i s = .next t →
    t = s.hold ∨
    ∃ r : Response, t.responses = s.responses ++ [r] ∧ t.port = .idle ∧
      (i ≠ .reset → i ≠ .clrerr → s.err &&& t.err = s.err ∧
        (r.code = 0 → t.err = s.err ∧ t.lastErr = s.lastErr ∧ t.errCmd = s.errCmd))

/-- R266, R277, R291, R306: no command faults, and the only refusals are a transceiver command that passes its checks under cp ≥ N
(its place among the checks is the model's choice, log 9) and a write to SNR_LIN of a value not above 0 (log 10). The third ground of R277
and R306, a non-finite value, is refused at the host's turn and not by a command (log 27). -/
def Obligations.RefusalsOnlyByRule : Prop :=
  ∀ (i : Instr) (s : State),
    (∀ f, exec i s ≠ .fault f) ∧
    ∀ q, exec i s = .refused q ↔
      (q = .cyclicPrefixTooLong ∧ transceiver i = true ∧ ∃ a, s.active = some a ∧ a.nfft.toNat ≤ a.cplen.toNat ∧
        ∀ n, i = .demsym n → n.toNat ≤ a.nfft.toNat + a.cplen.toNat) ∨
      (q = .snrNotPositive ∧ ∃ x : Scalar, i = .wrreg 0x20 (.scalar x) ∧ Config.num.lt (Config.num.ofNat 0) x = false)

/-! ### Frames and invariants over all commands -/

/-- R64, R65, R75: a successful command but RESET pops exactly its count from the front of its input queue and pushes exactly its count
to the back of its output queues, as the table of R65 gives them. -/
def Obligations.QueueUseByCommand : Prop :=
  ∀ (i : Instr) (s t : State) (d : Option Item), ConfigInv s → i ≠ .reset → exec i s = .next t →
    t.responses = s.responses ++ [⟨0, d⟩] →
    popsBi s i ≤ s.bi.length ∧ t.bi = s.bi.drop (popsBi s i) ∧
    popsCi i ≤ s.ci.length ∧ t.ci = s.ci.drop (popsCi i) ∧
    (∃ x, t.bo = s.bo ++ x ∧ x.length = pushesBo s i) ∧
    (∃ x, t.co = s.co ++ x ∧ x.length = pushesCo s i) ∧
    (∃ x, t.no = s.no ++ x ∧ x.length = pushesNo i)

/-- R26, R33, R67, R121, R218, R303: which commands change what: only COMMIT the active configuration, only WRREG the staged registers, SNR_LIN and FS,
only CHSEL and PROFLD the channel object, only PROFLD the profile, only CHSEL CH_FS, only SER its counts, only NOISE and CHTX the powers,
only transceiver commands SYMCNT; RESET apart. The system commands and CHSEL and PROFLD leave all five queues.
That PROFLD leaves CH_FS is R204's word against R35's (log 30). -/
def Obligations.OnlyItsCommandChanges : Prop :=
  ∀ (i : Instr) (s t : State), exec i s = .next t → i ≠ .reset →
    (i ≠ .commit → t.active = s.active) ∧
    ((∀ r v, i ≠ .wrreg r v) → SameStaged s t) ∧
    ((∀ c, i ≠ .chsel c) → (∀ p f, i ≠ .profld p f) → t.ch = s.ch) ∧
    ((∀ p f, i ≠ .profld p f) → t.profile = s.profile) ∧
    ((∀ c, i ≠ .chsel c) → t.chFs = s.chFs) ∧
    ((∀ a b, i ≠ .ser a b) → t.serErrs = s.serErrs ∧ t.serTotal = s.serTotal) ∧
    ((∀ n, i ≠ .noise n) → (∀ n, i ≠ .chtx n) → t.psig = s.psig ∧ t.pnoise = s.pnoise) ∧
    (transceiver i = false → t.symCnt = s.symCnt ∧ t.phase = s.phase ∧ t.symIdx = s.symIdx) ∧
    (transceiver i = false → i ≠ .commit → t.buf = s.buf) ∧
    (popsBi s i = 0 → popsCi i = 0 → transceiver i = false → SameQueues s t)

/-- R25: the informational registers, S_BW, S_SCS, S_TS, S_CPTYPE and their active copies, take part in no computation: changing them
changes no other result of any command, but WRREG, RDREG and COMMIT, which write, read and copy them, and RESET, which clears the staged
ones whatever they hold. Changing the active copies alone changes no other result of WRREG either. That a draw does not depend on them is
the model's choice (logs 4, 5). -/
def Obligations.InformationalRegistersUnused : Prop :=
  ∀ (i : Instr) (s : State) (bw scs ts bw' scs' ts' : Option Scalar) (cp cp' : Option CpType),
    (∀ r, i ≠ .rdreg r) → i ≠ .commit →
    let active : State → State := fun t =>
      { t with active := t.active.map fun a => { a with bw := bw, scs := scs, ts := ts, cptype := cp } }
    let staged : State → State := fun t => { t with staged := { t.staged with bw := bw', scs := scs', ts := ts', cptype := cp' } }
    exec i (active s) = mapNext active (exec i s) ∧
    (i ≠ .reset → (∀ r v, i ≠ .wrreg r v) → exec i (staged s) = mapNext staged (exec i s)) ∧
    (i = .reset → exec i (staged s) = exec i s)

/-- R23, R26, R30, R32, R33, R36, R42: the invariant of the block holds at reset. That SYMIDX is 0 and the port idle there is the
model's choice (log 24). -/
def Obligations.ResetMeetsInvariant : Prop := Inv State.reset

/-- R26, R27, R28, R30, R32, R33, R35, R36, R37, R38, R306: every step, a command's or the host's, keeps the invariant of the block: the active
configuration is legal and ROM its point set, the filter agrees with the registers, SNR_LIN is positive, the error record is consistent,
the phase is at rest, and no non-finite value stands in CI or in the payload on the port (R306; refused where the host hands it over,
log 27). -/
def Obligations.StepKeepsInvariant : Prop :=
  ∀ s t : State, Inv s → step s = .next t → Inv t

/-! ### The host -/

/-- R66, R78, R280, R281, R297, R299, R306: with no command on the port the host pushes at the tail (finite samples), pops at the head,
moves elements from an output to the input queue of the same type, issues a command, and asserts reset, while a command is held too; with
nothing to come an idle block stays as it is (log 22) and a held command is stuck. A sample or a payload with a non-finite value is refused
(log 27). The host's plan, its responses and the draw count are the model's own, as is that a reset leaves a held command on the port, to be
looked at again (logs 6, 7, 14, 29). -/
def Obligations.HostLiberties : Prop :=
  ∀ (s : State) (rest : List HostAction), s.port = .idle →
    (∀ l, s.script = .pushBits l :: rest → step s = .next { s with script := rest, bi := s.bi ++ l }) ∧
    (∀ l, s.script = .pushSamples l :: rest → step s =
      if l.all Cplx.isFinite = true then .next { s with script := rest, ci := s.ci ++ l } else .refused .nonFiniteValue) ∧
    (∀ n, s.script = .popBits n :: rest → n ≤ s.bo.length →
      step s = .next { s with script := rest, bo := s.bo.drop n }) ∧
    (∀ n, s.script = .popSamples n :: rest → n ≤ s.co.length →
      step s = .next { s with script := rest, co := s.co.drop n }) ∧
    (∀ n, s.script = .popNoise n :: rest → n ≤ s.no.length →
      step s = .next { s with script := rest, no := s.no.drop n }) ∧
    (∀ n, s.script = .xferBits n :: rest → n ≤ s.bo.length →
      step s = .next { s with script := rest, bo := s.bo.drop n, bi := s.bi ++ s.bo.take n }) ∧
    (∀ n, s.script = .xferSamples n :: rest → n ≤ s.co.length → step s =
      if (s.co.take n).all Cplx.isFinite = true then
        .next { s with script := rest, co := s.co.drop n, ci := s.ci ++ s.co.take n }
      else .refused .nonFiniteValue) ∧
    (∀ c, s.script = .issue c :: rest → step s =
      if c.payload.all Item.isFinite = true then .next { s with script := rest, port := .issued c }
      else .refused .nonFiniteValue) ∧
    (s.script = .reset :: rest →
      step s = .next { State.reset with script := rest, responses := s.responses, draws := s.draws } ∧
      ∀ c, step { s with port := .held c } = .next { State.reset with
        port := .issued c, script := rest, responses := s.responses, draws := s.draws }) ∧
    (s.script = [] → step s = .next s) ∧
    (∀ c, s.script = [] → step { s with port := .held c } = .fault .starved)

/-- R107, R130: the pseudo-instruction CONFIG, put in the host's plan of an idle block, is five or six commands that end with the configuration
active. -/
def Obligations.ConfigPseudoInstructionConfigures : Prop :=
  ∀ (s : State) (n nc cp : Word) (m : Modulation) (scfdm : Option Bool) (rest : List HostAction), s.port = .idle →
    1 ≤ nc.toNat → nc.toNat ≤ n.toNat →
    s.script = pseudoConfig n nc cp m.ident (scfdm.map boolWord) ++ rest →
    ∃ t : State, Host.Core.run Sys2Proof.core (10 + 2 * scfdm.toList.length) s = .next t ∧ t.port = .idle ∧ t.script = rest ∧ t.err = s.err ∧
      ∃ a, t.active = some a ∧ a.nfft = n ∧ a.nc = nc ∧ a.cplen = cp ∧ a.mod = m ∧
        a.scfdm = scfdm.getD s.staged.scfdm
end

