-- ==== Sys2Proof/Laws/Carrier.lean ====
section
/-! SUPPORT. The open carrier of `NUM` leaves every carrier possible, the real numbers of `NUM_exact` among them (R6, R7, R8, D1). -/

namespace Sys2Proof

/-- Every type `K` with a predicate that says which values are finite, one at least, has the shape of `ScalarOf`. -/
theorem every_carrier_admissible (K : Type) (finite : K → Prop) (k : K) (hk : finite k) :
    ∃ (F N : LinOrd.{0}) (e : K ≃ ScalarOf F N), ∀ x, (e x).isFinite = true ↔ finite x := by
  classical
  let F := { x : K // finite x ∧ x ≠ k }
  let N := { x : K // ¬ finite x }
  let toFun : K → ScalarOf F N := fun x =>
    if hx : finite x then (if h : x = k then .base else .finite ⟨x, hx, h⟩) else .nonFinite ⟨x, hx⟩
  let invFun : ScalarOf F N → K
    | .base => k
    | .finite v => v.val
    | .nonFinite v => v.val
  let e : K ≃ ScalarOf F N :=
    { toFun := toFun
      invFun := invFun
      left_inv := fun x => by
        by_cases hx : finite x
        · by_cases h : x = k <;> simp [toFun, invFun, hx, h, hk]
        · simp [toFun, invFun, hx]
      right_inv := fun y => by
        cases y with
        | base => simp [toFun, invFun, hk]
        | finite v => simp [toFun, invFun, v.property.1, v.property.2]
        | nonFinite v => simp [toFun, invFun, v.property] }
  let _ : LinearOrder F := linearOrderOfSTO WellOrderingRel
  let _ : LinearOrder N := linearOrderOfSTO WellOrderingRel
  refine ⟨LinOrd.of F, LinOrd.of N, e, fun x => ?_⟩
  change (toFun x).isFinite = true ↔ finite x
  by_cases hx : finite x
  · by_cases h : x = k <;> simp [toFun, hx, h, hk, ScalarOf.isFinite]
  · simp [toFun, hx, ScalarOf.isFinite]

/-- A number system read through a renaming of its carrier. -/
def NumSys.transfer {K L : Type} (e : K ≃ L) (num : NumSys K) : NumSys L :=
  let down : Cplx L → Cplx K := fun z => ⟨e.symm z.re, e.symm z.im⟩
  let up : Cplx K → Cplx L := fun z => ⟨e z.re, e z.im⟩
  { ofNat := fun n => e (num.ofNat n)
    add := fun a b => e (num.add (e.symm a) (e.symm b))
    sub := fun a b => e (num.sub (e.symm a) (e.symm b))
    mul := fun a b => e (num.mul (e.symm a) (e.symm b))
    neg := fun a => e (num.neg (e.symm a))
    div := fun a b => e (num.div (e.symm a) (e.symm b))
    lt := fun a b => num.lt (e.symm a) (e.symm b)
    eq := fun a b => num.eq (e.symm a) (e.symm b)
    invSqrtNat := fun n => e (num.invSqrtNat n)
    cscale := fun m => e (num.cscale m)
    udft := fun n v => (num.udft n (v.map down)).map up
    uidft := fun n v => (num.uidft n (v.map down)).map up }

/-- `NUM_exact` is an admissible value of the machine's parameters: for some values of the two open types the carrier is the real
numbers, all of them finite, and `NUM_exact` is a number system over it. -/
theorem exact_admissible :
    ∃ (F N : LinOrd.{0}) (e : ℝ ≃ ScalarOf F N) (num : NumSys (ScalarOf F N)),
      num = NumSys.exact.transfer e ∧ ∀ x, (e x).isFinite = true := by
  obtain ⟨F, N, e, he⟩ := every_carrier_admissible ℝ (fun _ => True) 0 trivial
  exact ⟨F, N, e, _, rfl, fun x => (he x).mpr trivial⟩

end Sys2Proof
end

