-- ==== Sys2Proof/Laws/Datapath.lean ====
section
/-! SUPPORT. Lengths and elements of the sequences the datapath makes, over any number system. -/

namespace Sys2Proof

variable {K : Type}

/-! ### Sizes -/

theorem Modulation.bps_pos (m : Modulation) : 0 < m.bps := by cases m <;> decide

theorem Modulation.size_eq (m : Modulation) : 2 ^ m.bps = m.side * m.side := by cases m <;> decide

theorem Modulation.ofIdent_ident (m : Modulation) : Modulation.ofIdent m.ident = some m := by cases m <;> decide

theorem Modulation.ident_of_ofIdent {w : Word} {m : Modulation} (h : Modulation.ofIdent w = some m) : m.ident = w := by
  unfold Modulation.ofIdent at h
  split at h
  · cases h; simp_all [Modulation.ident]
  · split at h
    · cases h; simp_all [Modulation.ident]
    · split at h
      · cases h; simp_all [Modulation.ident]
      · cases h

theorem ceilDiv_zero {b : Nat} (hb : 0 < b) : ceilDiv 0 b = 0 := by
  unfold ceilDiv
  exact Nat.div_eq_of_lt (by omega)

theorem le_ceilDiv_mul (a : Nat) {b : Nat} (hb : 0 < b) : a ≤ ceilDiv a b * b := by
  unfold ceilDiv
  have := Nat.div_add_mod (a + b - 1) b
  have := Nat.mod_lt (a + b - 1) hb
  rw [Nat.mul_comm]
  omega

theorem ceilDiv_mul_lt (a : Nat) {b : Nat} (hb : 0 < b) : ceilDiv a b * b < a + b := by
  unfold ceilDiv
  have := Nat.div_mul_le_self (a + b - 1) b
  omega

/-- `ceil_div` is the least k with k·b ≥ a (R10). -/
theorem ceilDiv_le_iff {a b k : Nat} (hb : 0 < b) : ceilDiv a b ≤ k ↔ a ≤ k * b := by
  constructor
  · intro h
    exact (le_ceilDiv_mul a hb).trans (Nat.mul_le_mul_right b h)
  · intro h
    by_contra hk
    have h1 : (k + 1) * b ≤ ceilDiv a b * b := Nat.mul_le_mul_right b (by omega)
    have h2 := ceilDiv_mul_lt a hb
    have h3 : (k + 1) * b = k * b + b := by ring
    omega

/-! ### Sequences -/

theorem slice_length_of_le {α : Type} {l : List α} {w s : Nat} (h : (s + 1) * w ≤ l.length) : (slice l w s).length = w := by
  have : (s + 1) * w = s * w + w := by ring
  simp [slice]; omega

theorem slice_getElem? {α : Type} (l : List α) (w s t : Nat) :
    (slice l w s)[t]? = if t < w then l[s * w + t]? else none := by
  simp [slice, List.getElem?_take]

theorem padBits_length {n : Nat} {l : List Bit} (h : l.length ≤ n) : (padBits n l).length = n := by
  simp [padBits]; omega

theorem padBits_self (l : List Bit) : padBits l.length l = l := by simp [padBits]

theorem mapChunks_length {b : Nat} (rom : Vector (Cplx K) (2 ^ b)) (n : Nat) (l : List Bit) :
    (mapChunks rom n l).length = n := by simp [mapChunks]

theorem mapChunks_getElem? {b : Nat} (rom : Vector (Cplx K) (2 ^ b)) (n : Nat) (l : List Bit) {s : Nat} (h : s < n) :
    (mapChunks rom n l)[s]? = some (romAt rom (chunkIndex b (slice l b s))) := by simp [mapChunks, h]

theorem encodeBits_length {b : Nat} (rom : Vector (Cplx K) (2 ^ b)) (l : List Bit) :
    (encodeBits rom l).length = ceilDiv l.length b := mapChunks_length ..

theorem indexBits_length {b : Nat} (i : BitVec b) : (indexBits i).length = b := by simp [indexBits]

theorem decodeSymbols_length {b : Nat} (num : NumSys K) (rom : Vector (Cplx K) (2 ^ b)) (r : List (Cplx K)) :
    (decodeSymbols num rom r).length = r.length * b := by
  induction r with
  | nil => simp [decodeSymbols]
  | cons z r ih =>
    simp only [decodeSymbols] at ih
    simp [decodeSymbols, indexBits_length, ih]
    ring

theorem detectSymbols_length {b : Nat} (num : NumSys K) (rom : Vector (Cplx K) (2 ^ b)) (r : List (Cplx K)) :
    (detectSymbols num rom r).length = r.length := by simp [detectSymbols]

theorem NumSys.zeros_length (num : NumSys K) (n : Nat) : (num.zeros n).length = n := by simp [NumSys.zeros]

theorem NumSys.forward_length (num : NumSys K) (v : List (Cplx K)) : (num.forward v).length = v.length := by
  simp [NumSys.forward]

theorem NumSys.inverse_length (num : NumSys K) (v : List (Cplx K)) : (num.inverse v).length = v.length := by
  simp [NumSys.inverse]

namespace Machine

theorem precode_length (num : NumSys K) (a : Active K) (d : List (Cplx K)) : (precode num a d).length = d.length := by
  unfold precode
  split <;> simp [NumSys.forward_length]

theorem deprecode_length (num : NumSys K) (a : Active K) (d : List (Cplx K)) :
    (deprecode num a d).length = d.length := by
  unfold deprecode
  split <;> simp [NumSys.inverse_length]

/-- The length of each modulator stage (R29, R161), for a configuration that COMMIT accepts. -/
theorem ofdmMod_lengths (num : NumSys K) (a : Active K) (b : List Bit) (hc : a.nc.toNat ≤ a.nfft.toNat)
    (hp : a.cplen.toNat ≤ a.nfft.toNat) :
    (ofdmMod num a b).dbuf.length = a.nc.toNat ∧ (ofdmMod num a b).fbuf.length = a.nfft.toNat ∧
    (ofdmMod num a b).tbuf.length = a.nfft.toNat ∧ (ofdmMod num a b).obuf.length = a.spo := by
  simp [ofdmMod, insertPrefix, mapBins, symbolStage, precode_length, NumSys.inverse_length, NumSys.zeros_length,
    mapChunks_length, Active.spo]
  omega

/-- The length of each demodulator stage (R29, R181), for a chunk of at most SPO samples. -/
theorem ofdmDemod_lengths (num : NumSys K) (a : Active K) (c : List (Cplx K)) (hc : a.nc.toNat ≤ a.nfft.toNat)
    (hn : c.length ≤ a.spo) :
    (ofdmDemod num a c).obuf.length = a.spo ∧ (ofdmDemod num a c).tbuf.length = a.nfft.toNat ∧
    (ofdmDemod num a c).fbuf.length = a.nfft.toNat ∧ (ofdmDemod num a c).dbuf.length = a.nc.toNat := by
  simp [ofdmDemod, stripPrefix, padChunk, deprecode_length, NumSys.forward_length, NumSys.zeros_length, Active.spo] at *
  omega

theorem modSymbols_length (num : NumSys K) (a : Active K) (b : List Bit) :
    (modSymbols num a b).length = ceilDiv b.length a.bpo := by simp [modSymbols]

theorem demChunks_length (num : NumSys K) (a : Active K) (x : List (Cplx K)) :
    (demChunks num a x).length = ceilDiv x.length a.spo := by simp [demChunks]

end Machine

end Sys2Proof
end

