-- ==== Sys2Proof/Laws/Encoding.lean ====
section
/-! SUPPORT. The tables of opcodes and registers read back, and each field of a word of each format. -/

namespace Sys2Proof

theorem Opcode.ofByte_byte (o : Opcode) : Opcode.ofByte o.byte = some o := by cases o <;> decide

theorem Opcode.byte_of_ofByte {b : BitVec 8} {o : Opcode} (h : Opcode.ofByte b = some o) : o.byte = b := by
  have := List.find?_some h
  simpa using this

theorem Reg.ofNumber_number (r : Reg) : Reg.ofNumber r.number = some r := by cases r <;> decide

theorem Reg.number_of_ofNumber {n : BitVec 8} {r : Reg} (h : Reg.ofNumber n = some r) : r.number = n := by
  have := List.find?_some h
  simpa using this

theorem Opcode.bytes_distinct : Opcode.all.Pairwise fun o p => o.byte ≠ p.byte := by decide

theorem Reg.numbers_distinct : Reg.all.Pairwise fun r q => r.number ≠ q.number := by decide

/-! ### The fields of a word of each format (R90, R91) -/

theorem getLsbD_word (o : BitVec 8) (n : BitVec 24) (i : Nat) :
    BitVec.getLsbD (w := 32) (o ++ n) i = if i < 24 then n.getLsbD i else o.getLsbD (i - 24) :=
  BitVec.getLsbD_append

theorem getLsbD_byteArg (v : BitVec 8) (i : Nat) :
    BitVec.getLsbD (w := 24) ((0 : BitVec 16) ++ v) i = (decide (i < 8) && v.getLsbD i) := by
  rw [show BitVec.getLsbD (w := 24) ((0 : BitVec 16) ++ v) i = _ from BitVec.getLsbD_append]
  by_cases h : i < 8 <;> simp [h]

theorem getLsbD_countArg (a b : BitVec 12) (i : Nat) :
    BitVec.getLsbD (w := 24) (a ++ b) i = if i < 12 then b.getLsbD i else a.getLsbD (i - 12) :=
  BitVec.getLsbD_append

section fields

variable (o : BitVec 8) (n : BitVec 24) (v : BitVec 8) (a b : BitVec 12)

theorem opField_append : opField (o ++ n) = o := by
  apply BitVec.eq_of_getLsbD_eq
  intro i hi
  rw [opField, BitVec.getLsbD_extractLsb', getLsbD_word]
  simp [hi]

theorem argField_append : argField (o ++ n) = n := by
  apply BitVec.eq_of_getLsbD_eq
  intro i hi
  rw [argField, BitVec.getLsbD_extractLsb', getLsbD_word]
  simp [hi]

theorem midField_append : midField (o ++ ((0 : BitVec 16) ++ v)) = 0 := by
  apply BitVec.eq_of_getLsbD_eq
  intro i hi
  rw [midField, BitVec.getLsbD_extractLsb', getLsbD_word, getLsbD_byteArg]
  have h : 8 + i < 24 := by omega
  simp [h]

theorem lowField_append : lowField (o ++ ((0 : BitVec 16) ++ v)) = v := by
  apply BitVec.eq_of_getLsbD_eq
  intro i hi
  rw [lowField, BitVec.getLsbD_extractLsb', getLsbD_word, getLsbD_byteArg]
  have h : i < 24 := by omega
  simp [h, hi]

theorem aField_append : aField (o ++ (a ++ b)) = a := by
  apply BitVec.eq_of_getLsbD_eq
  intro i hi
  rw [aField, BitVec.getLsbD_extractLsb', getLsbD_word, getLsbD_countArg]
  have h : 12 + i < 24 := by omega
  simp [h, hi]

theorem bField_append : bField (o ++ (a ++ b)) = b := by
  apply BitVec.eq_of_getLsbD_eq
  intro i hi
  rw [bField, BitVec.getLsbD_extractLsb', getLsbD_word, getLsbD_countArg]
  have h : i < 24 := by omega
  simp [h, hi]

/-- A word is its opcode and its argument (R90). -/
theorem word_eq_append (w : Word) : w = opField w ++ argField w := by
  apply BitVec.eq_of_getLsbD_eq
  intro i hi
  rw [getLsbD_word, opField, argField, BitVec.getLsbD_extractLsb', BitVec.getLsbD_extractLsb']
  by_cases h : i < 24
  · simp [h]
  · have h1 : i - 24 < 8 := by omega
    have h2 : 24 + (i - 24) = i := by omega
    simp [h, h1, h2]

/-- An argument whose must-be-zero bits are 0 is its low byte (R91, formats R, C, L). -/
theorem argField_eq_append (w : Word) (h0 : midField w = 0) : argField w = (0 : BitVec 16) ++ lowField w := by
  apply BitVec.eq_of_getLsbD_eq
  intro i hi
  rw [getLsbD_byteArg, argField, lowField, BitVec.getLsbD_extractLsb', BitVec.getLsbD_extractLsb']
  by_cases h : i < 8
  · simp [h, hi]
  · have h1 : i - 8 < 16 := by omega
    have h2 : 8 + (i - 8) = i := by omega
    have := congrArg (fun v => v.getLsbD (i - 8)) h0
    simp only [midField, BitVec.getLsbD_extractLsb', h1, h2] at this
    simpa [h, hi] using this

/-- An argument is its two 12-bit counts (R91, format P). -/
theorem argField_eq_counts (w : Word) : argField w = aField w ++ bField w := by
  apply BitVec.eq_of_getLsbD_eq
  intro i hi
  rw [getLsbD_countArg, aField, bField, argField, BitVec.getLsbD_extractLsb', BitVec.getLsbD_extractLsb',
    BitVec.getLsbD_extractLsb']
  by_cases h : i < 12
  · simp [h, hi]
  · have h1 : i - 12 < 12 := by omega
    have h2 : 12 + (i - 12) = i := by omega
    simp [h, h1, h2, hi]

end fields

theorem profileItems_length (taps : List Tap) (fd : Scalar) : (profileItems taps fd).length = 2 * taps.length + 1 := by
  induction taps with
  | nil => rfl
  | cons t ts ih => simp [profileItems, ih]; omega

theorem readProfile_items (taps : List Tap) (fd : Scalar) :
    readProfile taps.length (profileItems taps fd) = some (taps, fd) := by
  induction taps with
  | nil => rfl
  | cons t ts ih => simp [profileItems, readProfile, ih]

theorem items_of_readProfile {n : Nat} {pl : List Item} {p : List Tap × Scalar} (h : readProfile n pl = some p) :
    p.1.length = n ∧ profileItems p.1 p.2 = pl := by
  induction n generalizing pl p with
  | zero =>
    unfold readProfile at h
    split at h
    · cases h
      exact ⟨rfl, rfl⟩
    · simp_all
    · cases h
  | succ n ih =>
    unfold readProfile at h
    split at h
    · simp_all
    · rename_i d g rest heq
      obtain ⟨rfl⟩ : n = _ := Nat.succ.inj heq
      simp only [Option.map_eq_some_iff] at h
      obtain ⟨q, hq, rfl⟩ := h
      simpa [profileItems] using ih hq
    · cases h

end Sys2Proof
end

