-- ==== Sys2Proof/Laws/State.lean ====
section
/-! SUPPORT. Each shared update of the state, field by field: what it writes and what it leaves. -/

namespace Sys2Proof.Machine


/-! ### State.respond -/

@[simp] theorem State.respond_staged (code : Nat) (data : Option Item) (s : State) :
    (s.respond code data).staged = s.staged := rfl
@[simp] theorem State.respond_active (code : Nat) (data : Option Item) (s : State) :
    (s.respond code data).active = s.active := rfl
@[simp] theorem State.respond_snrLin (code : Nat) (data : Option Item) (s : State) :
    (s.respond code data).snrLin = s.snrLin := rfl
@[simp] theorem State.respond_fs (code : Nat) (data : Option Item) (s : State) :
    (s.respond code data).fs = s.fs := rfl
@[simp] theorem State.respond_ch (code : Nat) (data : Option Item) (s : State) :
    (s.respond code data).ch = s.ch := rfl
@[simp] theorem State.respond_profile (code : Nat) (data : Option Item) (s : State) :
    (s.respond code data).profile = s.profile := rfl
@[simp] theorem State.respond_chFs (code : Nat) (data : Option Item) (s : State) :
    (s.respond code data).chFs = s.chFs := rfl
@[simp] theorem State.respond_err (code : Nat) (data : Option Item) (s : State) :
    (s.respond code data).err = s.err := rfl
@[simp] theorem State.respond_lastErr (code : Nat) (data : Option Item) (s : State) :
    (s.respond code data).lastErr = s.lastErr := rfl
@[simp] theorem State.respond_errCmd (code : Nat) (data : Option Item) (s : State) :
    (s.respond code data).errCmd = s.errCmd := rfl
@[simp] theorem State.respond_serErrs (code : Nat) (data : Option Item) (s : State) :
    (s.respond code data).serErrs = s.serErrs := rfl
@[simp] theorem State.respond_serTotal (code : Nat) (data : Option Item) (s : State) :
    (s.respond code data).serTotal = s.serTotal := rfl
@[simp] theorem State.respond_psig (code : Nat) (data : Option Item) (s : State) :
    (s.respond code data).psig = s.psig := rfl
@[simp] theorem State.respond_pnoise (code : Nat) (data : Option Item) (s : State) :
    (s.respond code data).pnoise = s.pnoise := rfl
@[simp] theorem State.respond_phase (code : Nat) (data : Option Item) (s : State) :
    (s.respond code data).phase = s.phase := rfl
@[simp] theorem State.respond_symIdx (code : Nat) (data : Option Item) (s : State) :
    (s.respond code data).symIdx = s.symIdx := rfl
@[simp] theorem State.respond_symCnt (code : Nat) (data : Option Item) (s : State) :
    (s.respond code data).symCnt = s.symCnt := rfl
@[simp] theorem State.respond_buf (code : Nat) (data : Option Item) (s : State) :
    (s.respond code data).buf = s.buf := rfl
@[simp] theorem State.respond_bi (code : Nat) (data : Option Item) (s : State) :
    (s.respond code data).bi = s.bi := rfl
@[simp] theorem State.respond_ci (code : Nat) (data : Option Item) (s : State) :
    (s.respond code data).ci = s.ci := rfl
@[simp] theorem State.respond_bo (code : Nat) (data : Option Item) (s : State) :
    (s.respond code data).bo = s.bo := rfl
@[simp] theorem State.respond_co (code : Nat) (data : Option Item) (s : State) :
    (s.respond code data).co = s.co := rfl
@[simp] theorem State.respond_no (code : Nat) (data : Option Item) (s : State) :
    (s.respond code data).no = s.no := rfl
@[simp] theorem State.respond_port (code : Nat) (data : Option Item) (s : State) :
    (s.respond code data).port = .idle := rfl
@[simp] theorem State.respond_script (code : Nat) (data : Option Item) (s : State) :
    (s.respond code data).script = s.script := rfl
@[simp] theorem State.respond_responses (code : Nat) (data : Option Item) (s : State) :
    (s.respond code data).responses = s.responses ++ [⟨code, data⟩] := rfl
@[simp] theorem State.respond_draws (code : Nat) (data : Option Item) (s : State) :
    (s.respond code data).draws = s.draws := rfl

/-! ### State.raise -/

@[simp] theorem State.raise_staged (e : ErrorCode) (w : Word) (s : State) : (s.raise e w).staged = s.staged := rfl
@[simp] theorem State.raise_active (e : ErrorCode) (w : Word) (s : State) : (s.raise e w).active = s.active := rfl
@[simp] theorem State.raise_snrLin (e : ErrorCode) (w : Word) (s : State) : (s.raise e w).snrLin = s.snrLin := rfl
@[simp] theorem State.raise_fs (e : ErrorCode) (w : Word) (s : State) : (s.raise e w).fs = s.fs := rfl
@[simp] theorem State.raise_ch (e : ErrorCode) (w : Word) (s : State) : (s.raise e w).ch = s.ch := rfl
@[simp] theorem State.raise_profile (e : ErrorCode) (w : Word) (s : State) : (s.raise e w).profile = s.profile := rfl
@[simp] theorem State.raise_chFs (e : ErrorCode) (w : Word) (s : State) : (s.raise e w).chFs = s.chFs := rfl
@[simp] theorem State.raise_err (e : ErrorCode) (w : Word) (s : State) :
    (s.raise e w).err = s.err ||| (1#32 <<< errorCode e) := rfl
@[simp] theorem State.raise_lastErr (e : ErrorCode) (w : Word) (s : State) :
    (s.raise e w).lastErr = BitVec.ofNat 32 (errorCode e) := rfl
@[simp] theorem State.raise_errCmd (e : ErrorCode) (w : Word) (s : State) : (s.raise e w).errCmd = w := rfl
@[simp] theorem State.raise_serErrs (e : ErrorCode) (w : Word) (s : State) : (s.raise e w).serErrs = s.serErrs := rfl
@[simp] theorem State.raise_serTotal (e : ErrorCode) (w : Word) (s : State) :
    (s.raise e w).serTotal = s.serTotal := rfl
@[simp] theorem State.raise_psig (e : ErrorCode) (w : Word) (s : State) : (s.raise e w).psig = s.psig := rfl
@[simp] theorem State.raise_pnoise (e : ErrorCode) (w : Word) (s : State) : (s.raise e w).pnoise = s.pnoise := rfl
@[simp] theorem State.raise_phase (e : ErrorCode) (w : Word) (s : State) : (s.raise e w).phase = s.phase := rfl
@[simp] theorem State.raise_symIdx (e : ErrorCode) (w : Word) (s : State) : (s.raise e w).symIdx = s.symIdx := rfl
@[simp] theorem State.raise_symCnt (e : ErrorCode) (w : Word) (s : State) : (s.raise e w).symCnt = s.symCnt := rfl
@[simp] theorem State.raise_buf (e : ErrorCode) (w : Word) (s : State) : (s.raise e w).buf = s.buf := rfl
@[simp] theorem State.raise_bi (e : ErrorCode) (w : Word) (s : State) : (s.raise e w).bi = s.bi := rfl
@[simp] theorem State.raise_ci (e : ErrorCode) (w : Word) (s : State) : (s.raise e w).ci = s.ci := rfl
@[simp] theorem State.raise_bo (e : ErrorCode) (w : Word) (s : State) : (s.raise e w).bo = s.bo := rfl
@[simp] theorem State.raise_co (e : ErrorCode) (w : Word) (s : State) : (s.raise e w).co = s.co := rfl
@[simp] theorem State.raise_no (e : ErrorCode) (w : Word) (s : State) : (s.raise e w).no = s.no := rfl
@[simp] theorem State.raise_port (e : ErrorCode) (w : Word) (s : State) : (s.raise e w).port = .idle := rfl
@[simp] theorem State.raise_script (e : ErrorCode) (w : Word) (s : State) : (s.raise e w).script = s.script := rfl
@[simp] theorem State.raise_responses (e : ErrorCode) (w : Word) (s : State) :
    (s.raise e w).responses = s.responses ++ [⟨errorCode e, none⟩] := rfl
@[simp] theorem State.raise_draws (e : ErrorCode) (w : Word) (s : State) : (s.raise e w).draws = s.draws := rfl

/-! ### State.hold -/

@[simp] theorem State.hold_staged (s : State) : (s.hold).staged = s.staged := rfl
@[simp] theorem State.hold_active (s : State) : (s.hold).active = s.active := rfl
@[simp] theorem State.hold_snrLin (s : State) : (s.hold).snrLin = s.snrLin := rfl
@[simp] theorem State.hold_fs (s : State) : (s.hold).fs = s.fs := rfl
@[simp] theorem State.hold_ch (s : State) : (s.hold).ch = s.ch := rfl
@[simp] theorem State.hold_profile (s : State) : (s.hold).profile = s.profile := rfl
@[simp] theorem State.hold_chFs (s : State) : (s.hold).chFs = s.chFs := rfl
@[simp] theorem State.hold_err (s : State) : (s.hold).err = s.err := rfl
@[simp] theorem State.hold_lastErr (s : State) : (s.hold).lastErr = s.lastErr := rfl
@[simp] theorem State.hold_errCmd (s : State) : (s.hold).errCmd = s.errCmd := rfl
@[simp] theorem State.hold_serErrs (s : State) : (s.hold).serErrs = s.serErrs := rfl
@[simp] theorem State.hold_serTotal (s : State) : (s.hold).serTotal = s.serTotal := rfl
@[simp] theorem State.hold_psig (s : State) : (s.hold).psig = s.psig := rfl
@[simp] theorem State.hold_pnoise (s : State) : (s.hold).pnoise = s.pnoise := rfl
@[simp] theorem State.hold_phase (s : State) : (s.hold).phase = s.phase := rfl
@[simp] theorem State.hold_symIdx (s : State) : (s.hold).symIdx = s.symIdx := rfl
@[simp] theorem State.hold_symCnt (s : State) : (s.hold).symCnt = s.symCnt := rfl
@[simp] theorem State.hold_buf (s : State) : (s.hold).buf = s.buf := rfl
@[simp] theorem State.hold_bi (s : State) : (s.hold).bi = s.bi := rfl
@[simp] theorem State.hold_ci (s : State) : (s.hold).ci = s.ci := rfl
@[simp] theorem State.hold_bo (s : State) : (s.hold).bo = s.bo := rfl
@[simp] theorem State.hold_co (s : State) : (s.hold).co = s.co := rfl
@[simp] theorem State.hold_no (s : State) : (s.hold).no = s.no := rfl
@[simp] theorem State.hold_script (s : State) : (s.hold).script = s.script := rfl
@[simp] theorem State.hold_responses (s : State) : (s.hold).responses = s.responses := rfl
@[simp] theorem State.hold_draws (s : State) : (s.hold).draws = s.draws := rfl

/-! ### State.pushBits -/

@[simp] theorem State.pushBits_staged (l : List Bit) (s : State) : (s.pushBits l).staged = s.staged := rfl
@[simp] theorem State.pushBits_active (l : List Bit) (s : State) : (s.pushBits l).active = s.active := rfl
@[simp] theorem State.pushBits_snrLin (l : List Bit) (s : State) : (s.pushBits l).snrLin = s.snrLin := rfl
@[simp] theorem State.pushBits_fs (l : List Bit) (s : State) : (s.pushBits l).fs = s.fs := rfl
@[simp] theorem State.pushBits_ch (l : List Bit) (s : State) : (s.pushBits l).ch = s.ch := rfl
@[simp] theorem State.pushBits_profile (l : List Bit) (s : State) : (s.pushBits l).profile = s.profile := rfl
@[simp] theorem State.pushBits_chFs (l : List Bit) (s : State) : (s.pushBits l).chFs = s.chFs := rfl
@[simp] theorem State.pushBits_err (l : List Bit) (s : State) : (s.pushBits l).err = s.err := rfl
@[simp] theorem State.pushBits_lastErr (l : List Bit) (s : State) : (s.pushBits l).lastErr = s.lastErr := rfl
@[simp] theorem State.pushBits_errCmd (l : List Bit) (s : State) : (s.pushBits l).errCmd = s.errCmd := rfl
@[simp] theorem State.pushBits_serErrs (l : List Bit) (s : State) : (s.pushBits l).serErrs = s.serErrs := rfl
@[simp] theorem State.pushBits_serTotal (l : List Bit) (s : State) : (s.pushBits l).serTotal = s.serTotal := rfl
@[simp] theorem State.pushBits_psig (l : List Bit) (s : State) : (s.pushBits l).psig = s.psig := rfl
@[simp] theorem State.pushBits_pnoise (l : List Bit) (s : State) : (s.pushBits l).pnoise = s.pnoise := rfl
@[simp] theorem State.pushBits_phase (l : List Bit) (s : State) : (s.pushBits l).phase = s.phase := rfl
@[simp] theorem State.pushBits_symIdx (l : List Bit) (s : State) : (s.pushBits l).symIdx = s.symIdx := rfl
@[simp] theorem State.pushBits_symCnt (l : List Bit) (s : State) : (s.pushBits l).symCnt = s.symCnt := rfl
@[simp] theorem State.pushBits_buf (l : List Bit) (s : State) : (s.pushBits l).buf = s.buf := rfl
@[simp] theorem State.pushBits_bi (l : List Bit) (s : State) : (s.pushBits l).bi = s.bi := rfl
@[simp] theorem State.pushBits_ci (l : List Bit) (s : State) : (s.pushBits l).ci = s.ci := rfl
@[simp] theorem State.pushBits_bo (l : List Bit) (s : State) : (s.pushBits l).bo = s.bo ++ l := rfl
@[simp] theorem State.pushBits_co (l : List Bit) (s : State) : (s.pushBits l).co = s.co := rfl
@[simp] theorem State.pushBits_no (l : List Bit) (s : State) : (s.pushBits l).no = s.no := rfl
@[simp] theorem State.pushBits_port (l : List Bit) (s : State) : (s.pushBits l).port = s.port := rfl
@[simp] theorem State.pushBits_script (l : List Bit) (s : State) : (s.pushBits l).script = s.script := rfl
@[simp] theorem State.pushBits_responses (l : List Bit) (s : State) : (s.pushBits l).responses = s.responses := rfl
@[simp] theorem State.pushBits_draws (l : List Bit) (s : State) : (s.pushBits l).draws = s.draws := rfl

/-! ### State.pushSamples -/

@[simp] theorem State.pushSamples_staged (l : List Sample) (s : State) : (s.pushSamples l).staged = s.staged := rfl
@[simp] theorem State.pushSamples_active (l : List Sample) (s : State) : (s.pushSamples l).active = s.active := rfl
@[simp] theorem State.pushSamples_snrLin (l : List Sample) (s : State) : (s.pushSamples l).snrLin = s.snrLin := rfl
@[simp] theorem State.pushSamples_fs (l : List Sample) (s : State) : (s.pushSamples l).fs = s.fs := rfl
@[simp] theorem State.pushSamples_ch (l : List Sample) (s : State) : (s.pushSamples l).ch = s.ch := rfl
@[simp] theorem State.pushSamples_profile (l : List Sample) (s : State) : (s.pushSamples l).profile = s.profile := rfl
@[simp] theorem State.pushSamples_chFs (l : List Sample) (s : State) : (s.pushSamples l).chFs = s.chFs := rfl
@[simp] theorem State.pushSamples_err (l : List Sample) (s : State) : (s.pushSamples l).err = s.err := rfl
@[simp] theorem State.pushSamples_lastErr (l : List Sample) (s : State) : (s.pushSamples l).lastErr = s.lastErr := rfl
@[simp] theorem State.pushSamples_errCmd (l : List Sample) (s : State) : (s.pushSamples l).errCmd = s.errCmd := rfl
@[simp] theorem State.pushSamples_serErrs (l : List Sample) (s : State) : (s.pushSamples l).serErrs = s.serErrs := rfl
@[simp] theorem State.pushSamples_serTotal (l : List Sample) (s : State) :
    (s.pushSamples l).serTotal = s.serTotal := rfl
@[simp] theorem State.pushSamples_psig (l : List Sample) (s : State) : (s.pushSamples l).psig = s.psig := rfl
@[simp] theorem State.pushSamples_pnoise (l : List Sample) (s : State) : (s.pushSamples l).pnoise = s.pnoise := rfl
@[simp] theorem State.pushSamples_phase (l : List Sample) (s : State) : (s.pushSamples l).phase = s.phase := rfl
@[simp] theorem State.pushSamples_symIdx (l : List Sample) (s : State) : (s.pushSamples l).symIdx = s.symIdx := rfl
@[simp] theorem State.pushSamples_symCnt (l : List Sample) (s : State) : (s.pushSamples l).symCnt = s.symCnt := rfl
@[simp] theorem State.pushSamples_buf (l : List Sample) (s : State) : (s.pushSamples l).buf = s.buf := rfl
@[simp] theorem State.pushSamples_bi (l : List Sample) (s : State) : (s.pushSamples l).bi = s.bi := rfl
@[simp] theorem State.pushSamples_ci (l : List Sample) (s : State) : (s.pushSamples l).ci = s.ci := rfl
@[simp] theorem State.pushSamples_bo (l : List Sample) (s : State) : (s.pushSamples l).bo = s.bo := rfl
@[simp] theorem State.pushSamples_co (l : List Sample) (s : State) : (s.pushSamples l).co = s.co ++ l := rfl
@[simp] theorem State.pushSamples_no (l : List Sample) (s : State) : (s.pushSamples l).no = s.no := rfl
@[simp] theorem State.pushSamples_port (l : List Sample) (s : State) : (s.pushSamples l).port = s.port := rfl
@[simp] theorem State.pushSamples_script (l : List Sample) (s : State) : (s.pushSamples l).script = s.script := rfl
@[simp] theorem State.pushSamples_responses (l : List Sample) (s : State) :
    (s.pushSamples l).responses = s.responses := rfl
@[simp] theorem State.pushSamples_draws (l : List Sample) (s : State) : (s.pushSamples l).draws = s.draws := rfl

/-! ### State.pushNoise -/

@[simp] theorem State.pushNoise_staged (l : List Sample) (s : State) : (s.pushNoise l).staged = s.staged := rfl
@[simp] theorem State.pushNoise_active (l : List Sample) (s : State) : (s.pushNoise l).active = s.active := rfl
@[simp] theorem State.pushNoise_snrLin (l : List Sample) (s : State) : (s.pushNoise l).snrLin = s.snrLin := rfl
@[simp] theorem State.pushNoise_fs (l : List Sample) (s : State) : (s.pushNoise l).fs = s.fs := rfl
@[simp] theorem State.pushNoise_ch (l : List Sample) (s : State) : (s.pushNoise l).ch = s.ch := rfl
@[simp] theorem State.pushNoise_profile (l : List Sample) (s : State) : (s.pushNoise l).profile = s.profile := rfl
@[simp] theorem State.pushNoise_chFs (l : List Sample) (s : State) : (s.pushNoise l).chFs = s.chFs := rfl
@[simp] theorem State.pushNoise_err (l : List Sample) (s : State) : (s.pushNoise l).err = s.err := rfl
@[simp] theorem State.pushNoise_lastErr (l : List Sample) (s : State) : (s.pushNoise l).lastErr = s.lastErr := rfl
@[simp] theorem State.pushNoise_errCmd (l : List Sample) (s : State) : (s.pushNoise l).errCmd = s.errCmd := rfl
@[simp] theorem State.pushNoise_serErrs (l : List Sample) (s : State) : (s.pushNoise l).serErrs = s.serErrs := rfl
@[simp] theorem State.pushNoise_serTotal (l : List Sample) (s : State) : (s.pushNoise l).serTotal = s.serTotal := rfl
@[simp] theorem State.pushNoise_psig (l : List Sample) (s : State) : (s.pushNoise l).psig = s.psig := rfl
@[simp] theorem State.pushNoise_pnoise (l : List Sample) (s : State) : (s.pushNoise l).pnoise = s.pnoise := rfl
@[simp] theorem State.pushNoise_phase (l : List Sample) (s : State) : (s.pushNoise l).phase = s.phase := rfl
@[simp] theorem State.pushNoise_symIdx (l : List Sample) (s : State) : (s.pushNoise l).symIdx = s.symIdx := rfl
@[simp] theorem State.pushNoise_symCnt (l : List Sample) (s : State) : (s.pushNoise l).symCnt = s.symCnt := rfl
@[simp] theorem State.pushNoise_buf (l : List Sample) (s : State) : (s.pushNoise l).buf = s.buf := rfl
@[simp] theorem State.pushNoise_bi (l : List Sample) (s : State) : (s.pushNoise l).bi = s.bi := rfl
@[simp] theorem State.pushNoise_ci (l : List Sample) (s : State) : (s.pushNoise l).ci = s.ci := rfl
@[simp] theorem State.pushNoise_bo (l : List Sample) (s : State) : (s.pushNoise l).bo = s.bo := rfl
@[simp] theorem State.pushNoise_co (l : List Sample) (s : State) : (s.pushNoise l).co = s.co := rfl
@[simp] theorem State.pushNoise_no (l : List Sample) (s : State) : (s.pushNoise l).no = s.no ++ l := rfl
@[simp] theorem State.pushNoise_port (l : List Sample) (s : State) : (s.pushNoise l).port = s.port := rfl
@[simp] theorem State.pushNoise_script (l : List Sample) (s : State) : (s.pushNoise l).script = s.script := rfl
@[simp] theorem State.pushNoise_responses (l : List Sample) (s : State) :
    (s.pushNoise l).responses = s.responses := rfl
@[simp] theorem State.pushNoise_draws (l : List Sample) (s : State) : (s.pushNoise l).draws = s.draws := rfl

/-! ### State.endSymbols -/

@[simp] theorem State.endSymbols_staged (k : Nat) (s : State) : (s.endSymbols k).staged = s.staged := rfl
@[simp] theorem State.endSymbols_active (k : Nat) (s : State) : (s.endSymbols k).active = s.active := rfl
@[simp] theorem State.endSymbols_snrLin (k : Nat) (s : State) : (s.endSymbols k).snrLin = s.snrLin := rfl
@[simp] theorem State.endSymbols_fs (k : Nat) (s : State) : (s.endSymbols k).fs = s.fs := rfl
@[simp] theorem State.endSymbols_ch (k : Nat) (s : State) : (s.endSymbols k).ch = s.ch := rfl
@[simp] theorem State.endSymbols_profile (k : Nat) (s : State) : (s.endSymbols k).profile = s.profile := rfl
@[simp] theorem State.endSymbols_chFs (k : Nat) (s : State) : (s.endSymbols k).chFs = s.chFs := rfl
@[simp] theorem State.endSymbols_err (k : Nat) (s : State) : (s.endSymbols k).err = s.err := rfl
@[simp] theorem State.endSymbols_lastErr (k : Nat) (s : State) : (s.endSymbols k).lastErr = s.lastErr := rfl
@[simp] theorem State.endSymbols_errCmd (k : Nat) (s : State) : (s.endSymbols k).errCmd = s.errCmd := rfl
@[simp] theorem State.endSymbols_serErrs (k : Nat) (s : State) : (s.endSymbols k).serErrs = s.serErrs := rfl
@[simp] theorem State.endSymbols_serTotal (k : Nat) (s : State) : (s.endSymbols k).serTotal = s.serTotal := rfl
@[simp] theorem State.endSymbols_psig (k : Nat) (s : State) : (s.endSymbols k).psig = s.psig := rfl
@[simp] theorem State.endSymbols_pnoise (k : Nat) (s : State) : (s.endSymbols k).pnoise = s.pnoise := rfl
@[simp] theorem State.endSymbols_phase (k : Nat) (s : State) : (s.endSymbols k).phase = .bits := rfl
@[simp] theorem State.endSymbols_symIdx (k : Nat) (s : State) : (s.endSymbols k).symIdx = 0 := rfl
@[simp] theorem State.endSymbols_symCnt (k : Nat) (s : State) : (s.endSymbols k).symCnt = BitVec.ofNat 32 k := rfl
@[simp] theorem State.endSymbols_buf (k : Nat) (s : State) : (s.endSymbols k).buf = s.buf := rfl
@[simp] theorem State.endSymbols_bi (k : Nat) (s : State) : (s.endSymbols k).bi = s.bi := rfl
@[simp] theorem State.endSymbols_ci (k : Nat) (s : State) : (s.endSymbols k).ci = s.ci := rfl
@[simp] theorem State.endSymbols_bo (k : Nat) (s : State) : (s.endSymbols k).bo = s.bo := rfl
@[simp] theorem State.endSymbols_co (k : Nat) (s : State) : (s.endSymbols k).co = s.co := rfl
@[simp] theorem State.endSymbols_no (k : Nat) (s : State) : (s.endSymbols k).no = s.no := rfl
@[simp] theorem State.endSymbols_port (k : Nat) (s : State) : (s.endSymbols k).port = s.port := rfl
@[simp] theorem State.endSymbols_script (k : Nat) (s : State) : (s.endSymbols k).script = s.script := rfl
@[simp] theorem State.endSymbols_responses (k : Nat) (s : State) : (s.endSymbols k).responses = s.responses := rfl
@[simp] theorem State.endSymbols_draws (k : Nat) (s : State) : (s.endSymbols k).draws = s.draws := rfl

/-! ### State.resetBlock -/

@[simp] theorem State.resetBlock_staged (s : State) : (s.resetBlock).staged = State.reset.staged := rfl
@[simp] theorem State.resetBlock_active (s : State) : (s.resetBlock).active = State.reset.active := rfl
@[simp] theorem State.resetBlock_snrLin (s : State) : (s.resetBlock).snrLin = State.reset.snrLin := rfl
@[simp] theorem State.resetBlock_fs (s : State) : (s.resetBlock).fs = State.reset.fs := rfl
@[simp] theorem State.resetBlock_ch (s : State) : (s.resetBlock).ch = State.reset.ch := rfl
@[simp] theorem State.resetBlock_profile (s : State) : (s.resetBlock).profile = State.reset.profile := rfl
@[simp] theorem State.resetBlock_chFs (s : State) : (s.resetBlock).chFs = State.reset.chFs := rfl
@[simp] theorem State.resetBlock_err (s : State) : (s.resetBlock).err = State.reset.err := rfl
@[simp] theorem State.resetBlock_lastErr (s : State) : (s.resetBlock).lastErr = State.reset.lastErr := rfl
@[simp] theorem State.resetBlock_errCmd (s : State) : (s.resetBlock).errCmd = State.reset.errCmd := rfl
@[simp] theorem State.resetBlock_serErrs (s : State) : (s.resetBlock).serErrs = State.reset.serErrs := rfl
@[simp] theorem State.resetBlock_serTotal (s : State) : (s.resetBlock).serTotal = State.reset.serTotal := rfl
@[simp] theorem State.resetBlock_psig (s : State) : (s.resetBlock).psig = State.reset.psig := rfl
@[simp] theorem State.resetBlock_pnoise (s : State) : (s.resetBlock).pnoise = State.reset.pnoise := rfl
@[simp] theorem State.resetBlock_phase (s : State) : (s.resetBlock).phase = State.reset.phase := rfl
@[simp] theorem State.resetBlock_symIdx (s : State) : (s.resetBlock).symIdx = State.reset.symIdx := rfl
@[simp] theorem State.resetBlock_symCnt (s : State) : (s.resetBlock).symCnt = State.reset.symCnt := rfl
@[simp] theorem State.resetBlock_buf (s : State) : (s.resetBlock).buf = State.reset.buf := rfl
@[simp] theorem State.resetBlock_bi (s : State) : (s.resetBlock).bi = State.reset.bi := rfl
@[simp] theorem State.resetBlock_ci (s : State) : (s.resetBlock).ci = State.reset.ci := rfl
@[simp] theorem State.resetBlock_bo (s : State) : (s.resetBlock).bo = State.reset.bo := rfl
@[simp] theorem State.resetBlock_co (s : State) : (s.resetBlock).co = State.reset.co := rfl
@[simp] theorem State.resetBlock_no (s : State) : (s.resetBlock).no = State.reset.no := rfl
@[simp] theorem State.resetBlock_port (s : State) : (s.resetBlock).port = s.port := rfl
@[simp] theorem State.resetBlock_script (s : State) : (s.resetBlock).script = s.script := rfl
@[simp] theorem State.resetBlock_responses (s : State) : (s.resetBlock).responses = s.responses := rfl
@[simp] theorem State.resetBlock_draws (s : State) : (s.resetBlock).draws = s.draws := rfl

/-! ### State.emitSymbols -/

@[simp] theorem State.emitSymbols_staged (l : List (ModStages Scalar)) (s : State) :
    (s.emitSymbols l).staged = s.staged := rfl
@[simp] theorem State.emitSymbols_active (l : List (ModStages Scalar)) (s : State) :
    (s.emitSymbols l).active = s.active := rfl
@[simp] theorem State.emitSymbols_snrLin (l : List (ModStages Scalar)) (s : State) :
    (s.emitSymbols l).snrLin = s.snrLin := rfl
@[simp] theorem State.emitSymbols_fs (l : List (ModStages Scalar)) (s : State) : (s.emitSymbols l).fs = s.fs := rfl
@[simp] theorem State.emitSymbols_ch (l : List (ModStages Scalar)) (s : State) : (s.emitSymbols l).ch = s.ch := rfl
@[simp] theorem State.emitSymbols_profile (l : List (ModStages Scalar)) (s : State) :
    (s.emitSymbols l).profile = s.profile := rfl
@[simp] theorem State.emitSymbols_chFs (l : List (ModStages Scalar)) (s : State) :
    (s.emitSymbols l).chFs = s.chFs := rfl
@[simp] theorem State.emitSymbols_err (l : List (ModStages Scalar)) (s : State) : (s.emitSymbols l).err = s.err := rfl
@[simp] theorem State.emitSymbols_lastErr (l : List (ModStages Scalar)) (s : State) :
    (s.emitSymbols l).lastErr = s.lastErr := rfl
@[simp] theorem State.emitSymbols_errCmd (l : List (ModStages Scalar)) (s : State) :
    (s.emitSymbols l).errCmd = s.errCmd := rfl
@[simp] theorem State.emitSymbols_serErrs (l : List (ModStages Scalar)) (s : State) :
    (s.emitSymbols l).serErrs = s.serErrs := rfl
@[simp] theorem State.emitSymbols_serTotal (l : List (ModStages Scalar)) (s : State) :
    (s.emitSymbols l).serTotal = s.serTotal := rfl
@[simp] theorem State.emitSymbols_psig (l : List (ModStages Scalar)) (s : State) :
    (s.emitSymbols l).psig = s.psig := rfl
@[simp] theorem State.emitSymbols_pnoise (l : List (ModStages Scalar)) (s : State) :
    (s.emitSymbols l).pnoise = s.pnoise := rfl
@[simp] theorem State.emitSymbols_phase (l : List (ModStages Scalar)) (s : State) :
    (s.emitSymbols l).phase = .bits := rfl
@[simp] theorem State.emitSymbols_symIdx (l : List (ModStages Scalar)) (s : State) :
    (s.emitSymbols l).symIdx = 0 := rfl
@[simp] theorem State.emitSymbols_symCnt (l : List (ModStages Scalar)) (s : State) :
    (s.emitSymbols l).symCnt = BitVec.ofNat 32 l.length := rfl
@[simp] theorem State.emitSymbols_buf (l : List (ModStages Scalar)) (s : State) :
    (s.emitSymbols l).buf = Buffers.afterMod l s.buf := rfl
@[simp] theorem State.emitSymbols_bi (l : List (ModStages Scalar)) (s : State) : (s.emitSymbols l).bi = s.bi := rfl
@[simp] theorem State.emitSymbols_ci (l : List (ModStages Scalar)) (s : State) : (s.emitSymbols l).ci = s.ci := rfl
@[simp] theorem State.emitSymbols_bo (l : List (ModStages Scalar)) (s : State) : (s.emitSymbols l).bo = s.bo := rfl
@[simp] theorem State.emitSymbols_co (l : List (ModStages Scalar)) (s : State) :
    (s.emitSymbols l).co = s.co ++ l.flatMap fun o => o.obuf := rfl
@[simp] theorem State.emitSymbols_no (l : List (ModStages Scalar)) (s : State) : (s.emitSymbols l).no = s.no := rfl
@[simp] theorem State.emitSymbols_port (l : List (ModStages Scalar)) (s : State) :
    (s.emitSymbols l).port = s.port := rfl
@[simp] theorem State.emitSymbols_script (l : List (ModStages Scalar)) (s : State) :
    (s.emitSymbols l).script = s.script := rfl
@[simp] theorem State.emitSymbols_responses (l : List (ModStages Scalar)) (s : State) :
    (s.emitSymbols l).responses = s.responses := rfl
@[simp] theorem State.emitSymbols_draws (l : List (ModStages Scalar)) (s : State) :
    (s.emitSymbols l).draws = s.draws := rfl

/-! ### State.emitChunks -/

@[simp] theorem State.emitChunks_staged (l : List (DemStages Scalar)) (s : State) :
    (s.emitChunks l).staged = s.staged := rfl
@[simp] theorem State.emitChunks_active (l : List (DemStages Scalar)) (s : State) :
    (s.emitChunks l).active = s.active := rfl
@[simp] theorem State.emitChunks_snrLin (l : List (DemStages Scalar)) (s : State) :
    (s.emitChunks l).snrLin = s.snrLin := rfl
@[simp] theorem State.emitChunks_fs (l : List (DemStages Scalar)) (s : State) : (s.emitChunks l).fs = s.fs := rfl
@[simp] theorem State.emitChunks_ch (l : List (DemStages Scalar)) (s : State) : (s.emitChunks l).ch = s.ch := rfl
@[simp] theorem State.emitChunks_profile (l : List (DemStages Scalar)) (s : State) :
    (s.emitChunks l).profile = s.profile := rfl
@[simp] theorem State.emitChunks_chFs (l : List (DemStages Scalar)) (s : State) :
    (s.emitChunks l).chFs = s.chFs := rfl
@[simp] theorem State.emitChunks_err (l : List (DemStages Scalar)) (s : State) : (s.emitChunks l).err = s.err := rfl
@[simp] theorem State.emitChunks_lastErr (l : List (DemStages Scalar)) (s : State) :
    (s.emitChunks l).lastErr = s.lastErr := rfl
@[simp] theorem State.emitChunks_errCmd (l : List (DemStages Scalar)) (s : State) :
    (s.emitChunks l).errCmd = s.errCmd := rfl
@[simp] theorem State.emitChunks_serErrs (l : List (DemStages Scalar)) (s : State) :
    (s.emitChunks l).serErrs = s.serErrs := rfl
@[simp] theorem State.emitChunks_serTotal (l : List (DemStages Scalar)) (s : State) :
    (s.emitChunks l).serTotal = s.serTotal := rfl
@[simp] theorem State.emitChunks_psig (l : List (DemStages Scalar)) (s : State) :
    (s.emitChunks l).psig = s.psig := rfl
@[simp] theorem State.emitChunks_pnoise (l : List (DemStages Scalar)) (s : State) :
    (s.emitChunks l).pnoise = s.pnoise := rfl
@[simp] theorem State.emitChunks_phase (l : List (DemStages Scalar)) (s : State) :
    (s.emitChunks l).phase = .bits := rfl
@[simp] theorem State.emitChunks_symIdx (l : List (DemStages Scalar)) (s : State) : (s.emitChunks l).symIdx = 0 := rfl
@[simp] theorem State.emitChunks_symCnt (l : List (DemStages Scalar)) (s : State) :
    (s.emitChunks l).symCnt = BitVec.ofNat 32 l.length := rfl
@[simp] theorem State.emitChunks_buf (l : List (DemStages Scalar)) (s : State) :
    (s.emitChunks l).buf = Buffers.afterDem l s.buf := rfl
@[simp] theorem State.emitChunks_bi (l : List (DemStages Scalar)) (s : State) : (s.emitChunks l).bi = s.bi := rfl
@[simp] theorem State.emitChunks_ci (l : List (DemStages Scalar)) (s : State) : (s.emitChunks l).ci = s.ci := rfl
@[simp] theorem State.emitChunks_bo (l : List (DemStages Scalar)) (s : State) : (s.emitChunks l).bo = s.bo := rfl
@[simp] theorem State.emitChunks_co (l : List (DemStages Scalar)) (s : State) :
    (s.emitChunks l).co = s.co ++ l.flatMap fun o => o.dbuf := rfl
@[simp] theorem State.emitChunks_no (l : List (DemStages Scalar)) (s : State) : (s.emitChunks l).no = s.no := rfl
@[simp] theorem State.emitChunks_port (l : List (DemStages Scalar)) (s : State) :
    (s.emitChunks l).port = s.port := rfl
@[simp] theorem State.emitChunks_script (l : List (DemStages Scalar)) (s : State) :
    (s.emitChunks l).script = s.script := rfl
@[simp] theorem State.emitChunks_responses (l : List (DemStages Scalar)) (s : State) :
    (s.emitChunks l).responses = s.responses := rfl
@[simp] theorem State.emitChunks_draws (l : List (DemStages Scalar)) (s : State) :
    (s.emitChunks l).draws = s.draws := rfl

/-! ### State.retry -/

@[simp] theorem State.retry_staged (s : State) : (s.retry).staged = s.staged := rfl
@[simp] theorem State.retry_active (s : State) : (s.retry).active = s.active := rfl
@[simp] theorem State.retry_snrLin (s : State) : (s.retry).snrLin = s.snrLin := rfl
@[simp] theorem State.retry_fs (s : State) : (s.retry).fs = s.fs := rfl
@[simp] theorem State.retry_ch (s : State) : (s.retry).ch = s.ch := rfl
@[simp] theorem State.retry_profile (s : State) : (s.retry).profile = s.profile := rfl
@[simp] theorem State.retry_chFs (s : State) : (s.retry).chFs = s.chFs := rfl
@[simp] theorem State.retry_err (s : State) : (s.retry).err = s.err := rfl
@[simp] theorem State.retry_lastErr (s : State) : (s.retry).lastErr = s.lastErr := rfl
@[simp] theorem State.retry_errCmd (s : State) : (s.retry).errCmd = s.errCmd := rfl
@[simp] theorem State.retry_serErrs (s : State) : (s.retry).serErrs = s.serErrs := rfl
@[simp] theorem State.retry_serTotal (s : State) : (s.retry).serTotal = s.serTotal := rfl
@[simp] theorem State.retry_psig (s : State) : (s.retry).psig = s.psig := rfl
@[simp] theorem State.retry_pnoise (s : State) : (s.retry).pnoise = s.pnoise := rfl
@[simp] theorem State.retry_phase (s : State) : (s.retry).phase = s.phase := rfl
@[simp] theorem State.retry_symIdx (s : State) : (s.retry).symIdx = s.symIdx := rfl
@[simp] theorem State.retry_symCnt (s : State) : (s.retry).symCnt = s.symCnt := rfl
@[simp] theorem State.retry_buf (s : State) : (s.retry).buf = s.buf := rfl
@[simp] theorem State.retry_bi (s : State) : (s.retry).bi = s.bi := rfl
@[simp] theorem State.retry_ci (s : State) : (s.retry).ci = s.ci := rfl
@[simp] theorem State.retry_bo (s : State) : (s.retry).bo = s.bo := rfl
@[simp] theorem State.retry_co (s : State) : (s.retry).co = s.co := rfl
@[simp] theorem State.retry_no (s : State) : (s.retry).no = s.no := rfl
@[simp] theorem State.retry_script (s : State) : (s.retry).script = s.script := rfl
@[simp] theorem State.retry_responses (s : State) : (s.retry).responses = s.responses := rfl
@[simp] theorem State.retry_draws (s : State) : (s.retry).draws = s.draws := rfl

/-! ### State.issueCommand -/

@[simp] theorem State.issueCommand_staged (c : Command) (s : State) : (s.issueCommand c).staged = s.staged := rfl
@[simp] theorem State.issueCommand_active (c : Command) (s : State) : (s.issueCommand c).active = s.active := rfl
@[simp] theorem State.issueCommand_snrLin (c : Command) (s : State) : (s.issueCommand c).snrLin = s.snrLin := rfl
@[simp] theorem State.issueCommand_fs (c : Command) (s : State) : (s.issueCommand c).fs = s.fs := rfl
@[simp] theorem State.issueCommand_ch (c : Command) (s : State) : (s.issueCommand c).ch = s.ch := rfl
@[simp] theorem State.issueCommand_profile (c : Command) (s : State) : (s.issueCommand c).profile = s.profile := rfl
@[simp] theorem State.issueCommand_chFs (c : Command) (s : State) : (s.issueCommand c).chFs = s.chFs := rfl
@[simp] theorem State.issueCommand_err (c : Command) (s : State) : (s.issueCommand c).err = s.err := rfl
@[simp] theorem State.issueCommand_lastErr (c : Command) (s : State) : (s.issueCommand c).lastErr = s.lastErr := rfl
@[simp] theorem State.issueCommand_errCmd (c : Command) (s : State) : (s.issueCommand c).errCmd = s.errCmd := rfl
@[simp] theorem State.issueCommand_serErrs (c : Command) (s : State) : (s.issueCommand c).serErrs = s.serErrs := rfl
@[simp] theorem State.issueCommand_serTotal (c : Command) (s : State) :
    (s.issueCommand c).serTotal = s.serTotal := rfl
@[simp] theorem State.issueCommand_psig (c : Command) (s : State) : (s.issueCommand c).psig = s.psig := rfl
@[simp] theorem State.issueCommand_pnoise (c : Command) (s : State) : (s.issueCommand c).pnoise = s.pnoise := rfl
@[simp] theorem State.issueCommand_phase (c : Command) (s : State) : (s.issueCommand c).phase = s.phase := rfl
@[simp] theorem State.issueCommand_symIdx (c : Command) (s : State) : (s.issueCommand c).symIdx = s.symIdx := rfl
@[simp] theorem State.issueCommand_symCnt (c : Command) (s : State) : (s.issueCommand c).symCnt = s.symCnt := rfl
@[simp] theorem State.issueCommand_buf (c : Command) (s : State) : (s.issueCommand c).buf = s.buf := rfl
@[simp] theorem State.issueCommand_bi (c : Command) (s : State) : (s.issueCommand c).bi = s.bi := rfl
@[simp] theorem State.issueCommand_ci (c : Command) (s : State) : (s.issueCommand c).ci = s.ci := rfl
@[simp] theorem State.issueCommand_bo (c : Command) (s : State) : (s.issueCommand c).bo = s.bo := rfl
@[simp] theorem State.issueCommand_co (c : Command) (s : State) : (s.issueCommand c).co = s.co := rfl
@[simp] theorem State.issueCommand_no (c : Command) (s : State) : (s.issueCommand c).no = s.no := rfl
@[simp] theorem State.issueCommand_port (c : Command) (s : State) : (s.issueCommand c).port = .issued c := rfl
@[simp] theorem State.issueCommand_script (c : Command) (s : State) : (s.issueCommand c).script = s.script := rfl
@[simp] theorem State.issueCommand_responses (c : Command) (s : State) :
    (s.issueCommand c).responses = s.responses := rfl
@[simp] theorem State.issueCommand_draws (c : Command) (s : State) : (s.issueCommand c).draws = s.draws := rfl

end Sys2Proof.Machine
end

