-- ==== Sys2Proof/Laws/Ops.lean ====
section
/-! SUPPORT. Each shared operation of the commands, once: when it goes on, and everything it can answer. -/

namespace Sys2Proof.Machine

/-! ### The checks and the queues: what each answers when it goes on -/

theorem needConfig_some {w : Word} {s : State} {k : Active Scalar → Out} {a : Active Scalar} (h : s.active = some a) :
    needConfig w s k = k a := by simp [needConfig, h]

theorem needConfig_none {w : Word} {s : State} {k : Active Scalar → Out} (h : s.active = none) :
    needConfig w s k = fail .notConfigured w s := by simp [needConfig, h]

theorem needPrefix_of_lt {K : Type} {a : Active K} {k : Out} (h : a.cplen.toNat < a.nfft.toNat) :
    needPrefix a k = k := by simp [needPrefix, h]

theorem needPrefix_of_le {K : Type} {a : Active K} {k : Out} (h : a.nfft.toNat ≤ a.cplen.toNat) :
    needPrefix a k = .refused .cyclicPrefixTooLong := by simp [needPrefix, Nat.not_lt.mpr h]

theorem popBits_of_le {n : Nat} {s : State} {k : List Bit → State → Out} (h : n ≤ s.bi.length) :
    popBits n s k = k (s.bi.take n) { s with bi := s.bi.drop n } := by simp [popBits, h]

theorem popBits_of_lt {n : Nat} {s : State} {k : List Bit → State → Out} (h : s.bi.length < n) :
    popBits n s k = .next s.hold := by simp [popBits, Nat.not_le.mpr h]

theorem popSamples_of_le {n : Nat} {s : State} {k : List Sample → State → Out} (h : n ≤ s.ci.length) :
    popSamples n s k = k (s.ci.take n) { s with ci := s.ci.drop n } := by simp [popSamples, h]

theorem popSamples_of_lt {n : Nat} {s : State} {k : List Sample → State → Out} (h : s.ci.length < n) :
    popSamples n s k = .next s.hold := by simp [popSamples, Nat.not_le.mpr h]

/-! ### Inversion: everything an operation can have done when it answers `next` -/

theorem complete_next {s t : State} : complete s = .next t ↔ t = s.respond 0 none := by
  simp [complete, eq_comm]

theorem fail_next {e : ErrorCode} {w : Word} {s t : State} : fail e w s = .next t ↔ t = s.raise e w := by
  simp [fail, eq_comm]

theorem needConfig_next {w : Word} {s t : State} {k : Active Scalar → Out} (h : needConfig w s k = .next t) :
    (s.active = none ∧ t = s.raise .notConfigured w) ∨ ∃ a, s.active = some a ∧ k a = .next t := by
  unfold needConfig at h
  split at h
  · exact .inl ⟨‹_›, fail_next.mp h⟩
  · exact .inr ⟨_, ‹_›, h⟩

theorem needPrefix_next {K : Type} {a : Active K} {k : Out} {t : State} (h : needPrefix a k = .next t) :
    a.cplen.toNat < a.nfft.toNat ∧ k = .next t := by
  unfold needPrefix at h
  split at h
  · exact ⟨‹_›, h⟩
  · cases h

theorem popBits_next {n : Nat} {s t : State} {k : List Bit → State → Out} (h : popBits n s k = .next t) :
    (s.bi.length < n ∧ t = s.hold) ∨
    (n ≤ s.bi.length ∧ k (s.bi.take n) { s with bi := s.bi.drop n } = .next t) := by
  unfold popBits at h
  split at h
  · exact .inr ⟨‹_›, h⟩
  · cases h
    exact .inl ⟨Nat.not_le.mp ‹_›, rfl⟩

theorem popSamples_next {n : Nat} {s t : State} {k : List Sample → State → Out} (h : popSamples n s k = .next t) :
    (s.ci.length < n ∧ t = s.hold) ∨
    (n ≤ s.ci.length ∧ k (s.ci.take n) { s with ci := s.ci.drop n } = .next t) := by
  unfold popSamples at h
  split at h
  · exact .inr ⟨‹_›, h⟩
  · cases h
    exact .inl ⟨Nat.not_le.mp ‹_›, rfl⟩

/-! ### The channel's draws and the noise step -/

theorem fadeDraw_nil (p : Profile) (fs : Scalar) (s : State) : fadeDraw p fs [] s = ([], s) := rfl

theorem fadeDraw_length (p : Profile) (fs : Scalar) (x : List Sample) (s : State) :
    (fadeDraw p fs x s).1.length = x.length := by
  unfold fadeDraw
  split <;> simp_all

/-- A fade draw changes the draw count and nothing else. -/
theorem fadeDraw_state (p : Profile) (fs : Scalar) (x : List Sample) (s : State) :
    (fadeDraw p fs x s).2 = { s with draws := if x = [] then s.draws else s.draws + 1 } := by
  unfold fadeDraw
  split <;> simp_all

theorem noiseDraw_length (k n : Nat) (pn : Scalar) : (noiseDraw k n pn).length = n := by
  unfold noiseDraw
  split <;> simp [NumSys.zeros]

theorem noiseStep_nil (snr : Scalar) (s : State) : noiseStep snr [] s = s := rfl

/-- Everything the noise step does to a non-empty signal (R212). -/
theorem noiseStep_of_ne {snr : Scalar} {x : List Sample} (h : x ≠ []) (s : State) :
    noiseStep snr x s =
      { s with
        psig := some (Config.num.meanPower x)
        pnoise := some (Config.num.div (Config.num.meanPower x) snr)
        draws := s.draws + 1
        co := s.co ++ List.zipWith Config.num.addSample x
          (noiseDraw s.draws x.length (Config.num.div (Config.num.meanPower x) snr))
        no := s.no ++ noiseDraw s.draws x.length (Config.num.div (Config.num.meanPower x) snr) } := by
  simp [noiseStep, h, State.pushNoise, State.pushSamples]

/-- The state a fade needs (R208, R216). -/
theorem fadingSetup_eq_some {s : State} {p : Profile} {fs : Scalar} :
    fadingSetup s = some (p, fs) ↔ (∃ f, s.ch = .rayleigh f) ∧ s.profile = some p ∧ s.chFs = some fs := by
  unfold fadingSetup
  split <;> simp_all

/-! ### Registers -/

/-- What a write can have done (R128): it succeeds on a writable register only. -/
theorem writeReg_writable {r : Reg} {v : Item} {s t : State} (h : s.writeReg r v = some t) : r.writable = true := by
  cases r <;> cases v <;> simp_all [State.writeReg, Reg.writable]

/-- A write changes the staged registers, `SNR_LIN` or `FS`, and nothing else. -/
theorem writeReg_frame {r : Reg} {v : Item} {s t : State} (h : s.writeReg r v = some t) :
    t = { s with staged := t.staged, snrLin := t.snrLin, fs := t.fs } := by
  cases r <;> cases v <;>
    simp only [State.writeReg, Option.some.injEq, Option.map_eq_some_iff, reduceCtorEq] at h <;>
    first
      | (subst h; rfl)
      | (obtain ⟨_, _, rfl⟩ := h; rfl)

end Sys2Proof.Machine
end

