-- ==== Sys2Proof/Laws/Effect.lean ====
section
/-! SUPPORT. What every command can have done when it answers `next`, said once. -/

namespace Sys2Proof.Machine

/-- The shape of what the noise step writes: n samples and n noise values; both powers, or neither. -/
def NoiseWritten (s : State) (n : Nat) (y w : List Sample) (p q : Option Scalar) : Prop :=
  y.length = n ∧ w.length = n ∧ ((p = s.psig ∧ q = s.pnoise) ∨ (p.isSome = true ∧ q.isSome = true))

/-- What a command that ends well has done before it responds; RDREG, whose response carries a value, is apart. The values that an
oracle draws are left open. -/
def Effect (i : Instr) (s u : State) : Prop :=
  match i with
  | .nop => u = s
  | .reset => u = s.resetBlock
  | .clrerr => u = { s with err := 0, lastErr := 0, errCmd := 0 }
  | .rdreg _ => False
  | .wrreg reg v => ∃ r, Reg.ofNumber reg = some r ∧ s.writeReg r v = some u ∧ refusedWrite r v = false
  | .commit => ∃ nfft nc cplen m, ¬ (nfft = 0 ∨ nc = 0 ∨ nfft.toNat < nc.toNat) ∧
      s.staged.nfft = some nfft ∧ s.staged.nc = some nc ∧ s.staged.cplen = some cplen ∧
      u = { s with
        active := some (newActive Config.num Config.enum s.staged nfft nc cplen m), buf := Buffers.unwritten }
  | .enc n => ∃ a, s.active = some a ∧ n.toNat ≤ s.bi.length ∧
      u = { s with bi := s.bi.drop n.toNat, co := s.co ++ encodeBits a.rom (s.bi.take n.toNat) }
  | .dec n => ∃ a, s.active = some a ∧ n.toNat ≤ s.ci.length ∧
      u = { s with ci := s.ci.drop n.toNat, bo := s.bo ++ decodeSymbols Config.num a.rom (s.ci.take n.toNat) }
  | .modsym => ∃ a, s.active = some a ∧ a.cplen.toNat < a.nfft.toNat ∧ a.bpo ≤ s.bi.length ∧
      u = State.emitSymbols [ofdmMod Config.num a (s.bi.take a.bpo)] { s with bi := s.bi.drop a.bpo }
  | .modstr n => ∃ a, s.active = some a ∧ a.cplen.toNat < a.nfft.toNat ∧ n.toNat ≤ s.bi.length ∧
      u = State.emitSymbols (modSymbols Config.num a (s.bi.take n.toNat)) { s with bi := s.bi.drop n.toNat }
  | .demsym n => ∃ a, s.active = some a ∧ a.cplen.toNat < a.nfft.toNat ∧ n.toNat ≤ a.spo ∧ n.toNat ≤ s.ci.length ∧
      u = State.emitChunks [ofdmDemod Config.num a (s.ci.take n.toNat)] { s with ci := s.ci.drop n.toNat }
  | .demstr n => ∃ a, s.active = some a ∧ a.cplen.toNat < a.nfft.toNat ∧ n.toNat ≤ s.ci.length ∧
      u = State.emitChunks (demChunks Config.num a (s.ci.take n.toNat)) { s with ci := s.ci.drop n.toNat }
  | .chsel t => (t = 1 ∧ u = { s with ch := .awgn }) ∨
      (t = 2 ∧ ∃ f, s.fs = some f ∧ u = { s with chFs := some f, ch := .rayleigh ⟨f, s.profile⟩ })
  | .profld taps fd => (1 ≤ taps.length ∧ taps.length ≤ 255) ∧
      u = { s with profile := some ⟨taps, fd⟩, ch := Channel.withProfile ⟨taps, fd⟩ s.ch }
  | .fade n => n.toNat ≤ s.ci.length ∧ ∃ y d, y.length = n.toNat ∧
      u = { s with ci := s.ci.drop n.toNat, co := s.co ++ y, draws := d }
  | .noise n => n.toNat ≤ s.ci.length ∧ ∃ y w p q d, NoiseWritten s n.toNat y w p q ∧
      u = { s with ci := s.ci.drop n.toNat, co := s.co ++ y, no := s.no ++ w, psig := p, pnoise := q, draws := d }
  | .chtx n => n.toNat ≤ s.ci.length ∧ ∃ y w p q d, NoiseWritten s n.toNat y w p q ∧
      u = { s with ci := s.ci.drop n.toNat, co := s.co ++ y, no := s.no ++ w, psig := p, pnoise := q, draws := d }
  | .det n => ∃ a, s.active = some a ∧ n.toNat ≤ s.ci.length ∧
      u = { s with ci := s.ci.drop n.toNat, co := s.co ++ detectSymbols Config.num a.rom (s.ci.take n.toNat) }
  | .ser a b => a = b ∧ a.toNat + b.toNat ≤ s.ci.length ∧ ∃ k, k ≤ a.toNat ∧
      u = { s with
        ci := s.ci.drop (a.toNat + b.toNat), serErrs := BitVec.ofNat 32 k, serTotal := BitVec.ofNat 32 a.toNat }

theorem noiseStep_written (snr : Scalar) (x : List Sample) (s : State) :
    ∃ y w p q d, NoiseWritten s x.length y w p q ∧
      noiseStep snr x s = { s with co := s.co ++ y, no := s.no ++ w, psig := p, pnoise := q, draws := d } := by
  by_cases h : x = []
  · subst h
    exact ⟨[], [], s.psig, s.pnoise, s.draws, ⟨rfl, rfl, .inl ⟨rfl, rfl⟩⟩, by simp [noiseStep_nil]⟩
  · rw [noiseStep_of_ne h]
    exact ⟨_, _, _, _, _, ⟨by simp [noiseDraw_length], noiseDraw_length .., .inr ⟨rfl, rfl⟩⟩, rfl⟩

/-- Everything a command can have done when it answers `next`: held for want of input, failed and raised, answered RDREG, or had its
effect and responded. -/
theorem exec_next {i : Instr} {s t : State} (h : exec i s = .next t) :
    (t = s.hold ∧ (s.bi.length < popsBi s i ∨ s.ci.length < popsCi i)) ∨ (∃ e, t = s.raise e (wordOf i)) ∨
    (∃ r v, i = .rdreg r ∧ t = s.respond 0 (some v)) ∨ ∃ u, Effect i s u ∧ t = u.respond 0 none := by
  cases i with
  | nop => right; right; right; exact ⟨_, rfl, complete_next.mp h⟩
  | reset => right; right; right; exact ⟨_, rfl, complete_next.mp h⟩
  | clrerr => right; right; right; exact ⟨_, rfl, complete_next.mp h⟩
  | rdreg r =>
    simp only [exec, execRdreg] at h
    split at h
    · right; left; exact ⟨_, fail_next.mp h⟩
    · split at h
      · right; left; exact ⟨_, fail_next.mp h⟩
      · right; right; left; cases h; exact ⟨_, _, rfl, rfl⟩
  | wrreg r v =>
    simp only [exec, execWrreg] at h
    split at h
    · right; left; exact ⟨_, fail_next.mp h⟩
    · split at h
      · right; left; exact ⟨_, fail_next.mp h⟩
      · split at h
        · cases h
        · right; right; right
          exact ⟨_, ⟨_, ‹_›, ‹_›, by simpa using ‹¬ refusedWrite _ _ = true›⟩, complete_next.mp h⟩
  | commit =>
    simp only [exec, execCommit] at h
    repeat' split at h
    · right; left; exact ⟨_, fail_next.mp h⟩
    · right; left; exact ⟨_, fail_next.mp h⟩
    · right; right; right; exact ⟨_, ⟨_, _, _, _, by assumption, ‹_›, ‹_›, ‹_›, rfl⟩, complete_next.mp h⟩
    · right; left; exact ⟨_, fail_next.mp h⟩
  | enc n =>
    obtain ⟨_, h⟩ | ⟨a, ha, h⟩ := needConfig_next h
    · right; left; exact ⟨_, h⟩
    obtain ⟨h1, h⟩ | ⟨hl, h⟩ := popBits_next h
    · exact .inl ⟨h, .inl h1⟩
    · right; right; right; exact ⟨_, ⟨a, ha, hl, rfl⟩, complete_next.mp h⟩
  | dec n =>
    obtain ⟨_, h⟩ | ⟨a, ha, h⟩ := needConfig_next h
    · right; left; exact ⟨_, h⟩
    obtain ⟨h1, h⟩ | ⟨hl, h⟩ := popSamples_next h
    · exact .inl ⟨h, .inr h1⟩
    · right; right; right; exact ⟨_, ⟨a, ha, hl, rfl⟩, complete_next.mp h⟩
  | det n =>
    obtain ⟨_, h⟩ | ⟨a, ha, h⟩ := needConfig_next h
    · right; left; exact ⟨_, h⟩
    obtain ⟨h1, h⟩ | ⟨hl, h⟩ := popSamples_next h
    · exact .inl ⟨h, .inr h1⟩
    · right; right; right; exact ⟨_, ⟨a, ha, hl, rfl⟩, complete_next.mp h⟩
  | modsym =>
    obtain ⟨_, h⟩ | ⟨a, ha, h⟩ := needConfig_next h
    · right; left; exact ⟨_, h⟩
    obtain ⟨hp, h⟩ := needPrefix_next h
    obtain ⟨h1, h⟩ | ⟨hl, h⟩ := popBits_next h
    · exact .inl ⟨h, .inl (by simpa [popsBi, activeSize, ha] using h1)⟩
    · right; right; right; exact ⟨_, ⟨a, ha, hp, hl, rfl⟩, complete_next.mp h⟩
  | modstr n =>
    obtain ⟨_, h⟩ | ⟨a, ha, h⟩ := needConfig_next h
    · right; left; exact ⟨_, h⟩
    obtain ⟨hp, h⟩ := needPrefix_next h
    obtain ⟨h1, h⟩ | ⟨hl, h⟩ := popBits_next h
    · exact .inl ⟨h, .inl h1⟩
    · right; right; right; exact ⟨_, ⟨a, ha, hp, hl, rfl⟩, complete_next.mp h⟩
  | demstr n =>
    obtain ⟨_, h⟩ | ⟨a, ha, h⟩ := needConfig_next h
    · right; left; exact ⟨_, h⟩
    obtain ⟨hp, h⟩ := needPrefix_next h
    obtain ⟨h1, h⟩ | ⟨hl, h⟩ := popSamples_next h
    · exact .inl ⟨h, .inr h1⟩
    · right; right; right; exact ⟨_, ⟨a, ha, hp, hl, rfl⟩, complete_next.mp h⟩
  | demsym n =>
    obtain ⟨_, h⟩ | ⟨a, ha, h⟩ := needConfig_next h
    · right; left; exact ⟨_, h⟩
    revert h
    generalize hx : ofdmDemod Config.num a = fx
    intro h
    by_cases hs : a.spo < n.toNat
    · rw [if_pos hs] at h; right; left; exact ⟨_, fail_next.mp h⟩
    rw [if_neg hs] at h
    obtain ⟨hp, h⟩ := needPrefix_next h
    obtain ⟨h1, h⟩ | ⟨hl, h⟩ := popSamples_next h
    · exact .inl ⟨h, .inr h1⟩
    · right; right; right; exact ⟨_, ⟨a, ha, hp, Nat.not_lt.mp hs, hl, by rw [hx]⟩, complete_next.mp h⟩
  | chsel c =>
    simp only [exec, execChsel] at h
    repeat' split at h
    · right; right; right; exact ⟨_, .inl ⟨‹_›, rfl⟩, complete_next.mp h⟩
    · right; left; exact ⟨_, fail_next.mp h⟩
    · right; right; right; exact ⟨_, .inr ⟨‹_›, _, ‹_›, rfl⟩, complete_next.mp h⟩
    · right; left; exact ⟨_, fail_next.mp h⟩
  | profld taps fd =>
    simp only [exec, execProfld] at h
    split at h
    · right; right; right; exact ⟨_, ⟨‹_›, rfl⟩, complete_next.mp h⟩
    · right; left; exact ⟨_, fail_next.mp h⟩
  | fade n =>
    simp only [exec, execFade] at h
    split at h
    · right; left; exact ⟨_, fail_next.mp h⟩
    obtain ⟨h1, h⟩ | ⟨hl, h⟩ := popSamples_next h
    · exact .inl ⟨h, .inr h1⟩
    · right; right; right
      rw [fadeDraw_state] at h
      exact ⟨_, ⟨hl, _, _, by rw [fadeDraw_length]; simpa using hl, rfl⟩, complete_next.mp h⟩
  | noise n =>
    simp only [exec, execNoise] at h
    split at h
    · obtain ⟨h1, h⟩ | ⟨hl, h⟩ := popSamples_next h
      · exact .inl ⟨h, .inr h1⟩
      obtain ⟨y, w, p, q, d, hw, h4⟩ := noiseStep_written _ _ _
      rw [h4] at h
      right; right; right
      exact ⟨_, ⟨hl, y, w, p, q, d, by simpa [hl, NoiseWritten] using hw, rfl⟩, complete_next.mp h⟩
    · obtain ⟨h1, h⟩ | ⟨hl, h⟩ := popSamples_next h
      · exact .inl ⟨h, .inr h1⟩
      obtain ⟨y, w, p, q, d, hw, h4⟩ := noiseStep_written _ _ _
      rw [h4] at h
      right; right; right
      exact ⟨_, ⟨hl, y, w, p, q, d, by simpa [hl, NoiseWritten] using hw, rfl⟩, complete_next.mp h⟩
    · right; left; exact ⟨_, fail_next.mp h⟩
  | chtx n =>
    simp only [exec, execChtx] at h
    split at h
    · obtain ⟨h1, h⟩ | ⟨hl, h⟩ := popSamples_next h
      · exact .inl ⟨h, .inr h1⟩
      obtain ⟨y, w, p, q, d, hw, h4⟩ := noiseStep_written _ _ _
      rw [h4] at h
      right; right; right
      exact ⟨_, ⟨hl, y, w, p, q, d, by simpa [hl, NoiseWritten] using hw, rfl⟩, complete_next.mp h⟩
    · split at h
      · right; left; exact ⟨_, fail_next.mp h⟩
      · obtain ⟨h1, h⟩ | ⟨hl, h⟩ := popSamples_next h
        · exact .inl ⟨h, .inr h1⟩
        rw [fadeDraw_state] at h
        obtain ⟨y, w, p, q, d, hw, h4⟩ := noiseStep_written _ _ _
        rw [h4] at h
        rw [fadeDraw_length] at hw
        right; right; right
        exact ⟨_, ⟨hl, y, w, p, q, d, by simpa [hl, NoiseWritten] using hw, rfl⟩, complete_next.mp h⟩
    · right; left; exact ⟨_, fail_next.mp h⟩
  | ser a b =>
    simp only [exec, execSer] at h
    split at h
    · right; left; exact ⟨_, fail_next.mp h⟩
    · obtain ⟨h1, h⟩ | ⟨hl, h⟩ := popSamples_next h
      · exact .inl ⟨h, .inr h1⟩
      right; right; right
      refine ⟨_, ⟨by simp_all, hl, _, ?_, rfl⟩, complete_next.mp h⟩
      refine (List.countP_le_length).trans ?_
      simp

/-- No effect touches the responses or the port: `respond` does. -/
theorem Effect.responses {i : Instr} {s u : State} (h : Effect i s u) : u.responses = s.responses ∧ u.port = s.port := by
  cases i <;> simp only [Effect] at h
  case wrreg => obtain ⟨r, _, h, _⟩ := h; rw [writeReg_frame h]; exact ⟨rfl, rfl⟩
  case chsel => obtain ⟨_, rfl⟩ | ⟨_, _, _, rfl⟩ := h <;> exact ⟨rfl, rfl⟩
  all_goals
    repeat' (first | subst h | obtain ⟨_, h⟩ := h)
    exact ⟨by simp, by simp⟩

end Sys2Proof.Machine
end

