-- ==== Sys2Proof/Laws/Host.lean ====
section
/-! SUPPORT. What an action of the host can do, and what the commands of TRANSMIT carry. -/

namespace Sys2Proof.Machine

theorem allowed_next {c : Bool} {r : Refusal} {k : Out} {t : State} (h : allowed c r k = .next t) : c = true ∧ k = .next t := by
  cases c
  · cases h
  · exact ⟨rfl, h⟩

theorem intake_next {l : List Sample} {k : Out} {t : State} (h : intake l k = .next t) :
    l.all Cplx.isFinite = true ∧ k = .next t := allowed_next h

/-- Everything an action of the host can have done when it is not refused: it has changed queues, elements that entered `CI` being finite;
or put a command with a finite payload on a free port; or reset the block. But for an issue, a held command is then looked at again. -/
theorem hostAct_next {h : HostAction} {s t : State} (ht : hostAct h s = .next t) :
    (∃ bi ci bo co no, t = State.retry { s with bi := bi, ci := s.ci ++ ci, bo := bo, co := co, no := no } ∧
      ci.all Cplx.isFinite = true) ∨
    (∃ c, h = .issue c ∧ s.commandPending = false ∧ c.payload.all Item.isFinite = true ∧ t = { s with port := .issued c }) ∨
    (h = .reset ∧ t = State.retry s.resetBlock) := by
  cases h with
  | pushBits l => cases ht; exact .inl ⟨_, [], _, _, _, by simp; rfl, rfl⟩
  | pushSamples l => obtain ⟨hf, hk⟩ := intake_next ht; cases hk; exact .inl ⟨_, _, _, _, _, rfl, hf⟩
  | popBits n => obtain ⟨-, hk⟩ := allowed_next ht; cases hk; exact .inl ⟨_, [], _, _, _, by simp; rfl, rfl⟩
  | popSamples n => obtain ⟨-, hk⟩ := allowed_next ht; cases hk; exact .inl ⟨_, [], _, _, _, by simp; rfl, rfl⟩
  | popNoise n => obtain ⟨-, hk⟩ := allowed_next ht; cases hk; exact .inl ⟨_, [], _, _, _, by simp; rfl, rfl⟩
  | xferBits n => obtain ⟨-, hk⟩ := allowed_next ht; cases hk; exact .inl ⟨_, [], _, _, _, by simp; rfl, rfl⟩
  | xferSamples n =>
    obtain ⟨-, hk⟩ := allowed_next ht
    obtain ⟨hf, hk⟩ := intake_next hk
    cases hk
    exact .inl ⟨_, _, _, _, _, rfl, hf⟩
  | issue c =>
    obtain ⟨hp, hk⟩ := allowed_next ht
    obtain ⟨hf, hk⟩ := allowed_next hk
    cases hk
    exact .inr (.inl ⟨c, rfl, by simpa using hp, hf, rfl⟩)
  | reset => cases ht; exact .inr (.inr ⟨rfl, rfl⟩)

/-! ### The commands of TRANSMIT -/

/-- The largest multiple of a unit that one command takes. -/
theorem most_pos {unit : Nat} (hu : 0 < unit) (h : unit ≤ countMax) : 0 < countMax / unit * unit :=
  Nat.mul_pos (Nat.div_pos h hu) hu

/-- Every count is one that a command can carry, so none is wrapped (R16, R94). -/
theorem commandCounts_toNat {total unit c : Nat} (h : c ∈ commandCounts total unit) : (BitVec.ofNat 24 c).toNat = c := by
  simp only [commandCounts, List.mem_map] at h
  obtain ⟨i, -, rfl⟩ := h
  rw [BitVec.toNat_ofNat]
  exact Nat.mod_eq_of_lt (Nat.lt_of_le_of_lt ((Nat.min_le_left _ _).trans (Nat.div_mul_le_self countMax unit))
    (by decide : countMax < 2 ^ 24))

/-- Where one command is enough there is one, with the count of R112. -/
theorem commandCounts_of_le {k unit : Nat} (h : k * unit ≤ countMax) : commandCounts (k * unit) unit = [k * unit] := by
  have hm : k * unit ≤ countMax / unit * unit := by
    rcases Nat.eq_zero_or_pos unit with rfl | hu
    · simp
    · exact Nat.mul_le_mul_right unit ((Nat.le_div_iff_mul_le hu).mpr h)
  have h1 : max 1 (ceilDiv (k * unit) (countMax / unit * unit)) = 1 := by
    unfold ceilDiv
    rcases Nat.eq_zero_or_pos (countMax / unit * unit) with h0 | hp
    · simp [h0]
    · have : (k * unit + countMax / unit * unit - 1) / (countMax / unit * unit) ≤ 1 := by
        rw [← Nat.lt_succ_iff, Nat.div_lt_iff_lt_mul hp]; omega
      omega
  simp only [commandCounts, h1]
  simp [hm]

/-- Every count is of whole units: with `unit` the size of an OFDM symbol, no command cuts one (R186). -/
theorem unit_dvd_commandCounts {k unit c : Nat} (h : c ∈ commandCounts (k * unit) unit) : unit ∣ c := by
  simp only [commandCounts, List.mem_map] at h
  obtain ⟨i, -, rfl⟩ := h
  rcases Nat.le_total (countMax / unit * unit) (k * unit - i * (countMax / unit * unit)) with h | h
  · rw [Nat.min_eq_left h]; exact Nat.dvd_mul_left ..
  · rw [Nat.min_eq_right h]
    exact Nat.dvd_sub (Nat.dvd_mul_left ..) ((Nat.dvd_mul_left unit _).mul_left i)

/-- The commands carry all the elements between them (R112, R16). -/
theorem commandCounts_sum {total unit : Nat} (hu : 0 < unit) (hm : unit ≤ countMax) :
    (commandCounts total unit).sum = total := by
  have hp := most_pos hu hm
  have h : ∀ m c, ((List.range c).map fun i => min m (total - i * m)).sum = min (c * m) total := by
    intro m c
    induction c with
    | zero => simp
    | succ c ih =>
      rw [List.range_succ, List.map_append, List.sum_append, ih, Nat.succ_mul]
      simp only [List.map_cons, List.map_nil, List.sum_cons, List.sum_nil]
      omega
  rw [commandCounts, h]
  generalize countMax / unit * unit = m at hp ⊢
  have h1 : total ≤ ceilDiv total m * m := by
    have h2 := Nat.lt_div_mul_add hp (a := total + m - 1)
    unfold ceilDiv
    omega
  exact Nat.min_eq_right (h1.trans (Nat.mul_le_mul_right m (Nat.le_max_right 1 _)))

/-- Of a configuration that COMMIT accepts, TRANSMIT decodes with the one DEC of R112 whenever it has a plan. -/
theorem transmit_one_dec (a : Active Scalar) (n : BitVec 24) (h1 : 1 ≤ a.nc.toNat) (h2 : a.nc.toNat ≤ a.nfft.toNat)
    (hs : ceilDiv n.toNat a.bpo = 0 ∨ a.spo ≤ countMax) :
    commandCounts (ceilDiv n.toNat a.bpo * a.nc.toNat) 1 = [ceilDiv n.toNat a.bpo * a.nc.toNat] := by
  have hn : n.toNat ≤ countMax := Nat.le_sub_one_of_lt n.isLt
  have hb : 2 ≤ a.mod.bps := by cases a.mod <;> decide
  have hbpo : 2 * a.nc.toNat ≤ a.bpo := by
    rw [Active.bpo, Nat.mul_comm a.nc.toNat]
    exact Nat.mul_le_mul_right _ hb
  have hk : ceilDiv n.toNat a.bpo * a.bpo ≤ n.toNat + a.bpo - 1 := Nat.div_mul_le_self ..
  have hspo : a.nfft.toNat ≤ a.spo := Nat.le_add_right ..
  have key : ceilDiv n.toNat a.bpo * a.nc.toNat ≤ countMax := by
    generalize ceilDiv n.toNat a.bpo = k at hk hs ⊢
    match k with
    | 0 => simp
    | 1 => omega
    | k + 2 =>
      have h3 : (k + 1) * a.bpo < n.toNat := by
        rw [show k + 2 = (k + 1) + 1 from rfl, Nat.succ_mul] at hk
        omega
      have h4 : (k + 1) * (2 * a.nc.toNat) ≤ (k + 1) * a.bpo := Nat.mul_le_mul_left _ hbpo
      have h5 : (k + 2) * a.nc.toNat ≤ (k + 1) * (2 * a.nc.toNat) := by
        rw [← Nat.mul_assoc]
        exact Nat.mul_le_mul_right _ (by omega)
      omega
  have := commandCounts_of_le (k := ceilDiv n.toNat a.bpo * a.nc.toNat) (unit := 1) (by simpa using key)
  simpa using this

end Sys2Proof.Machine
end

