-- ==== Sys2Proof/Laws/Instances.lean ====
section
/-! SUPPORT. The laws by instance of R9: which properties of a number system a law needs, and that the exact instance has them. The
laws themselves are statements for the provers. -/

namespace Sys2Proof

theorem NumSys.exact_eqReflexive : NumSys.exact.EqReflexive := fun x => by simp [NumSys.exact]

theorem NumSys.exact_ltIrreflexive : NumSys.exact.LtIrreflexive := fun x => by simp [NumSys.exact]

/-- The comparison of the real numbers. -/
theorem NumSys.exact_ordered : NumSys.exact.Ordered := by
  refine ⟨NumSys.exact_ltIrreflexive, fun x y z h1 h2 => ?_, fun x y z h1 h2 => ?_⟩
  · simp only [NumSys.exact, decide_eq_true_eq] at *
    exact h1.trans h2
  · simp only [NumSys.exact, decide_eq_false_iff_not, not_lt] at *
    exact h2.trans h1

/-- R147's clause on `ROM` entries gives what the round trip of R150 needs: where the distance of an entry to itself computes as 0,
and to every other as above 0 under an ordering, the entries are told apart. -/
theorem separates_of_positive {K : Type} {num : NumSys K} {b : Nat} {rom : Vector (Cplx K) (2 ^ b)} (ho : num.Ordered)
    (hz : ∀ i : BitVec b, num.distSq (romAt rom i) (romAt rom i) = num.zero)
    (hp : ∀ i j : BitVec b, i ≠ j → num.lt num.zero (num.distSq (romAt rom i) (romAt rom j)) = true) :
    Separates num rom := by
  intro i j h
  rw [hz]
  refine ⟨hp i j h, Bool.eq_false_iff.mpr fun h2 => ?_⟩
  have h3 := ho.2.1 _ _ _ (hp i j h) h2
  rw [ho.1] at h3
  cases h3

/-- Under a reflexive `eq`, SER of a sequence against itself counts no error (R235, R236). -/
theorem Machine.symbolErrors_self {K : Type} {num : NumSys K} (h : num.EqReflexive) (x : List (Cplx K)) :
    Machine.symbolErrors num x x = 0 := by
  refine List.countP_eq_zero.mpr fun p hp => ?_
  obtain ⟨i, hi, rfl⟩ := List.mem_iff_getElem.mp hp
  simp [NumSys.eqSample, h _]

end Sys2Proof
end

