-- ==== Sys2Proof/Laws/PerInstr.lean ====
section
/-! SUPPORT. Statements about every instruction, one lemma per constructor. -/

namespace Sys2Proof.Laws.PayloadCount

/-- How long a command is follows from its word (R102): a well-formed instruction's encoding carries exactly the payload
items its word calls for. -/
def Statement (i : Instr) : Prop := i.wellFormed = true → (encode i).payload.length = payloadCount (encode i).word

/-- No payload is called for by an opcode other than WRREG and PROFLD. -/
theorem count_plain (o : Opcode) (n : BitVec 24) (hw : o ≠ .wrreg) (hp : o ≠ .profld) :
    payloadCount (o.byte ++ n) = 0 := by
  unfold payloadCount
  rw [opField_append, Opcode.ofByte_byte]
  cases o <;> first | rfl | contradiction

theorem nop : Statement .nop := fun _ => (count_plain .nop 0 nofun nofun).symm
theorem reset : Statement .reset := fun _ => (count_plain .reset 0 nofun nofun).symm
theorem clrerr : Statement .clrerr := fun _ => (count_plain .clrerr 0 nofun nofun).symm
theorem rdreg (reg : BitVec 8) : Statement (.rdreg reg) := fun _ => (count_plain .rdreg _ nofun nofun).symm
theorem wrreg (reg : BitVec 8) (v : Item) : Statement (.wrreg reg v) := fun _ => by
  change 1 = payloadCount (Opcode.wrreg.byte ++ _)
  rw [payloadCount, opField_append, Opcode.ofByte_byte]
theorem commit : Statement .commit := fun _ => (count_plain .commit 0 nofun nofun).symm
theorem enc (n : BitVec 24) : Statement (.enc n) := fun _ => (count_plain .enc n nofun nofun).symm
theorem dec (n : BitVec 24) : Statement (.dec n) := fun _ => (count_plain .dec n nofun nofun).symm
theorem modsym : Statement .modsym := fun _ => (count_plain .modsym 0 nofun nofun).symm
theorem modstr (n : BitVec 24) : Statement (.modstr n) := fun _ => (count_plain .modstr n nofun nofun).symm
theorem demsym (n : BitVec 24) : Statement (.demsym n) := fun _ => (count_plain .demsym n nofun nofun).symm
theorem demstr (n : BitVec 24) : Statement (.demstr n) := fun _ => (count_plain .demstr n nofun nofun).symm
theorem chsel (t : BitVec 8) : Statement (.chsel t) := fun _ => (count_plain .chsel _ nofun nofun).symm
theorem profld (taps : List Tap) (fd : Scalar) : Statement (.profld taps fd) := fun h => by
  have hl : 1 ≤ taps.length ∧ taps.length ≤ 255 := of_decide_eq_true h
  have hf : (lowField (Opcode.profld.byte ++ ((0 : BitVec 16) ++ BitVec.ofNat 8 taps.length))).toNat = taps.length := by
    rw [lowField_append, BitVec.toNat_ofNat]
    omega
  change (profileItems taps fd).length = payloadCount (Opcode.profld.byte ++ ((0 : BitVec 16) ++ _))
  rw [payloadCount, opField_append, Opcode.ofByte_byte, profileItems_length]
  exact congrArg (fun n => 2 * n + 1) hf.symm
theorem fade (n : BitVec 24) : Statement (.fade n) := fun _ => (count_plain .fade n nofun nofun).symm
theorem noise (n : BitVec 24) : Statement (.noise n) := fun _ => (count_plain .noise n nofun nofun).symm
theorem chtx (n : BitVec 24) : Statement (.chtx n) := fun _ => (count_plain .chtx n nofun nofun).symm
theorem det (n : BitVec 24) : Statement (.det n) := fun _ => (count_plain .det n nofun nofun).symm
theorem ser (a b : BitVec 12) : Statement (.ser a b) := fun _ => (count_plain .ser (a ++ b) nofun nofun).symm

end Sys2Proof.Laws.PayloadCount
end

