-- ==== Sys2Proof/Tests/Slice0.lean ====
section
/-! SUPPORT. The model's own tests: ill-formed terms, words written out from the spec, vectors of the spec's 95_test_vectors.md
(V and P numbers below are that file's), and a witness for the hypotheses of each statement. -/

namespace Sys2Proof.Machine

open Sys2Proof

/-! ### WellFormed: an ill-formed term for each check -/

theorem test_wellFormed_wrong_kind : (Instr.wrreg 0x20 (.nat32 1)).wellFormed = false := by decide

theorem test_wellFormed_no_taps : (Instr.profld [] .base).wellFormed = false := by decide

theorem test_wellFormed_too_many_taps (taps : List Tap) (h : taps.length = 256) :
    (Instr.profld taps .base).wellFormed = false := by simp [Instr.wellFormed, h]

theorem test_wellFormed_most_taps (taps : List Tap) (h : taps.length = 255) :
    (Instr.profld taps .base).wellFormed = true := by simp [Instr.wellFormed, h]

/-! ### Decoding: the words of V1, one for every command, and of V3 -/

theorem test_decode_nop : decode ⟨0x00000000, []⟩ = .ok .nop := by decide

theorem test_decode_reset : decode ⟨0x01000000, []⟩ = .ok .reset := by decide

theorem test_decode_clrerr : decode ⟨0x02000000, []⟩ = .ok .clrerr := by decide

theorem test_decode_rdreg : decode ⟨0x03000030, []⟩ = .ok (.rdreg 0x30) := by decide

theorem test_decode_wrreg : decode ⟨0x04000005, [.nat32 1]⟩ = .ok (.wrreg 0x05 (.nat32 1)) := by decide

theorem test_decode_commit : decode ⟨0x05000000, []⟩ = .ok .commit := by decide

theorem test_decode_enc : decode ⟨0x10002710, []⟩ = .ok (.enc 10000) := by decide

theorem test_decode_dec : decode ⟨0x110013EC, []⟩ = .ok (.dec 5100) := by decide

theorem test_decode_modsym : decode ⟨0x20000000, []⟩ = .ok .modsym := by decide

theorem test_decode_modstr : decode ⟨0x21FFFFFF, []⟩ = .ok (.modstr 16777215) := by decide

theorem test_decode_demsym : decode ⟨0x28000228, []⟩ = .ok (.demsym 552) := by decide

theorem test_decode_demstr : decode ⟨0x290024A8, []⟩ = .ok (.demstr 9384) := by decide

theorem test_decode_chsel : decode ⟨0x30000001, []⟩ = .ok (.chsel 1) := by decide

theorem test_decode_profld (d g e h f : Scalar) :
    decode ⟨0x31000002, [.scalar d, .scalar g, .scalar e, .scalar h, .scalar f]⟩ = .ok (.profld [⟨d, g⟩, ⟨e, h⟩] f) := by
  have h1 : Opcode.ofByte (opField 0x31000002#32) = some .profld := by decide
  have h2 : midField 0x31000002#32 = 0#16 := by decide
  have h3 : lowField 0x31000002#32 = 2#8 := by decide
  simp [decode, h1, decodeOperands, decodeProfile, h2, h3, readProfile]

theorem test_decode_fade : decode ⟨0x320024A8, []⟩ = .ok (.fade 9384) := by decide

theorem test_decode_noise : decode ⟨0x33000004, []⟩ = .ok (.noise 4) := by decide

theorem test_decode_chtx : decode ⟨0x340024A8, []⟩ = .ok (.chtx 9384) := by decide

theorem test_decode_det : decode ⟨0x40001388, []⟩ = .ok (.det 5000) := by decide

theorem test_decode_ser : decode ⟨0x41FFF003, []⟩ = .ok (.ser 4095 3) := by decide

/-! ### Illegal words of V2, one for each ground of R103 -/

theorem test_illegal_opcodes :
    [0x06000000#32, 0x12000000#32, 0x22000000#32, 0x2A000000#32, 0x35000000#32, 0x42000000#32, 0xFF000000#32].all
      (fun w => decide (decode ⟨w, []⟩ = .error .undefinedOpcode)) = true := by decide

theorem test_illegal_arg :
    [0x00000001#32, 0x05000100#32, 0x03000130#32, 0x30000100#32].all
      (fun w => decide (decode ⟨w, []⟩ = .error .mustBeZero)) = true := by decide

theorem test_illegal_zero_taps : decode ⟨0x31000000, [.scalar .base]⟩ = .error .zeroTaps := by decide

theorem test_illegal_no_item : decode ⟨0x04000002, []⟩ = .error .wrongPayload := by decide

theorem test_illegal_short_profile :
    decode ⟨0x31000002, [.scalar .base, .scalar .base, .scalar .base, .scalar .base]⟩ = .error .wrongPayload := by decide

/-! ### One step on small states -/

/-- The step that runs a command. -/
def runOne (c : Command) (s : State) : Out := step (s.issueCommand c)

/-- What the last response of a next state says. -/
def answered : Out → Option Response
  | .next t => t.responses.getLast?
  | .fault _ => none
  | .refused _ => none

/-- A part of the next state. -/
def seen {α : Type} (f : State → α) : Out → Option α
  | .next t => some (f t)
  | .fault _ => none
  | .refused _ => none

/-- A configuration N, Nc, cp with QPSK. -/
def qpskLink (n nc cp : Word) : Active Scalar :=
  { bw := none, scs := none, ts := none, cptype := none, nfft := n, nc := nc, cplen := cp, scfdm := false, mod := .qpsk,
    rom := points Config.num .qpsk (Config.enum .qpsk) }

/-- Reset, then `CONFIG 4, 2, 1, QPSK` in force. -/
def configured : State := { State.reset with active := some (qpskLink 4 2 1) }

/-- Staged registers as in a row of V4. -/
def staged (nfft nc cplen mod : Option Word) : State :=
  { State.reset with staged := { Staged.reset with nfft := nfft, nc := nc, cplen := cplen, mod := mod } }

/-- A profile of one tap. -/
def oneTap : Profile := ⟨[⟨.base, .base⟩], .base⟩

/-- One sample that can be written down. -/
def sample : Sample := ⟨.base, .base⟩

/-- Reset, then a multipath channel with a profile and an SNR, and m samples in `CI`. -/
def multipath (m : Nat) : State :=
  { State.reset with
    ch := .rayleigh ⟨.base, some oneTap⟩, chFs := some .base, fs := some .base, profile := some oneTap,
    snrLin := some .base, ci := List.replicate m sample }

/-- V4, first failing rows: a missing register; the modulation before the invariant; Nc > N. -/
theorem test_commit_errors :
    answered (runOne ⟨0x05000000, []⟩ (staged none (some 2) (some 1) (some 0))) = some ⟨6, none⟩ ∧
    answered (runOne ⟨0x05000000, []⟩ (staged (some 4) (some 8) (some 1) (some 3))) = some ⟨1, none⟩ ∧
    answered (runOne ⟨0x05000000, []⟩ (staged (some 4) (some 8) (some 1) (some 0))) = some ⟨7, none⟩ := by decide

/-- V4, last row: the active registers read back. -/
theorem test_commit_registers :
    seen (fun t => [Reg.aNfft, .aNc, .aCplen, .aMod, .aBps, .aScfdm, .status].map fun r => t.readReg r)
      (runOne ⟨0x05000000, []⟩ (staged (some 4) (some 2) (some 1) (some 0))) =
    some ([4, 2, 1, 0, 2, 0, 1].map fun v => some (.nat32 v)) := by decide

/-- V6: a register at its reset value, and an unwritten one. -/
theorem test_rdreg :
    answered (runOne ⟨0x03000030, []⟩ State.reset) = some ⟨0, some (.nat32 0)⟩ ∧
    answered (runOne ⟨0x03000011, []⟩ State.reset) = some ⟨6, none⟩ := by decide

/-- V2: a read-only register, and a value S_SCFDM does not take. -/
theorem test_wrreg_illegal :
    answered (runOne ⟨0x04000010, [.scalar .base]⟩ State.reset) = some ⟨5, none⟩ ∧
    answered (runOne ⟨0x04000007, [.nat32 2]⟩ State.reset) = some ⟨5, none⟩ := by decide

/-- R128: FS_VALID is set by a write of FS. -/
theorem test_wrreg_fs : seen State.statusWord (runOne ⟨0x04000021, [.scalar .base]⟩ State.reset) = some 4 := by decide

/-- V7: the bits of ERR add up, and ERRCMD is the last failing word. -/
theorem test_err_accumulates :
    seen (fun t => (t.err, t.lastErr, t.errCmd)) (runOne ⟨0x30000009, []⟩ { State.reset with err := 0x20, lastErr := 5 }) =
      some (0x28, 3, 0x30000009) := by decide

/-- V7: CLRERR. -/
theorem test_clrerr :
    seen (fun t => (t.err, t.lastErr, t.errCmd)) (runOne ⟨0x02000000, []⟩ { State.reset with err := 0x28, lastErr := 3 }) =
      some (0, 0, 0) := by decide

/-- R123: RESET empties the queues and clears CFG_VALID. -/
theorem test_reset :
    seen (fun t => (t.bi, t.statusWord)) (runOne ⟨0x01000000, []⟩ { configured with bi := [true] }) = some ([], 0) := by
  decide

/-- V40: CHSEL 1 in the reset state, CHSEL 2 without FS, CHSEL 0. -/
theorem test_chsel :
    seen State.statusWord (runOne ⟨0x30000001, []⟩ State.reset) = some 2 ∧
    answered (runOne ⟨0x30000002, []⟩ State.reset) = some ⟨2, none⟩ ∧
    answered (runOne ⟨0x30000000, []⟩ State.reset) = some ⟨3, none⟩ := by decide

/-- V44: the second PROFLD replaces the first. -/
theorem test_profld (d g f : Scalar) :
    seen (fun t => (t.readReg .ntaps, t.readReg .fd)) (exec (.profld [⟨d, g⟩] f) (multipath 0)) =
      some (some (.nat32 1), some (.scalar f)) := rfl

/-- V43: without a profile FADE and CHTX fail and pop nothing. -/
theorem test_fade_needs_profile :
    seen (fun t => (t.err, t.ci.length)) (runOne ⟨0x32000001, []⟩ { multipath 3 with profile := none }) = some (0x40, 3) ∧
    seen (fun t => (t.err, t.ci.length)) (runOne ⟨0x34000001, []⟩ { multipath 3 with profile := none }) = some (0x40, 3) := by
  decide

/-- V46: FADE 0 draws nothing. -/
theorem test_fade_nothing : seen (fun t => (t.draws, t.co)) (runOne ⟨0x32000000, []⟩ (multipath 3)) = some (0, []) := by
  decide

/-- R212: NOISE 0 writes no register. -/
theorem test_noise_nothing : seen (fun t => (t.psig, t.no)) (runOne ⟨0x33000000, []⟩ (multipath 3)) = some (none, []) := by
  decide

/-- R212: the noise that is added is also pushed to NO, one value for each sample. -/
theorem test_noise_lengths :
    seen (fun t => (t.ci.length, t.draws)) (runOne ⟨0x33000002, []⟩ (multipath 3)) = some (1, 1) := by rfl

/-- R216 (d): CHTX 0 draws nothing and writes no register. -/
theorem test_chtx_nothing : seen (fun t => (t.draws, t.psig)) (runOne ⟨0x34000000, []⟩ (multipath 3)) = some (0, none) := by
  decide

/-- V52: SER of unequal counts, and of nothing. -/
theorem test_ser :
    answered (runOne ⟨0x41002003, []⟩ State.reset) = some ⟨4, none⟩ ∧
    seen (fun t => (t.serErrs, t.serTotal)) (runOne ⟨0x41000000, []⟩ { State.reset with serErrs := 1, serTotal := 3 }) =
      some (0, 0) := by decide

/-- V14: ENC 4 with three bits is held, and before any COMMIT it fails. -/
theorem test_enc_held :
    seen (fun t => (t.port, t.bi.length)) (runOne ⟨0x10000004, []⟩ { configured with bi := [true, false, true] }) =
      some (.held ⟨0x10000004, []⟩, 3) ∧
    answered (runOne ⟨0x10000004, []⟩ State.reset) = some ⟨6, none⟩ := by decide

/-- V11: ENC 1 pads its one bit to a chunk and pushes one symbol. -/
theorem test_enc_pads : seen (fun t => (t.bi, t.co.length)) (runOne ⟨0x10000001, []⟩ { configured with bi := [true] }) =
    some ([], 1) := by rfl

/-- R148: DEC 2 under QPSK pushes four bits. -/
theorem test_dec_length :
    seen (fun t => t.ci.length) (runOne ⟨0x11000002, []⟩ { configured with ci := List.replicate 3 sample }) = some 1 := by rfl

/-- R231: DET keeps the bits queue. -/
theorem test_det : seen (fun t => (t.ci.length, t.bo)) (runOne ⟨0x40000002, []⟩ { configured with ci := List.replicate 3 sample }) =
    some (1, []) := by rfl

/-- P1: MODSYM takes four bits, SYMCNT is 1. -/
theorem test_modsym :
    seen (fun t => (t.bi, t.symCnt)) (runOne ⟨0x20000000, []⟩ { configured with bi := [false, false, true, true] }) =
      some ([], 1) := by rfl

/-- V27: MODSTR 0 leaves SYMCNT 0. V22: MODSTR 5 makes two symbols. -/
theorem test_modstr :
    seen (fun t => (t.co, t.symCnt)) (runOne ⟨0x21000000, []⟩ { configured with symCnt := 7 }) = some ([], 0) ∧
    seen (fun t => t.symCnt) (runOne ⟨0x21000005, []⟩ { configured with bi := List.replicate 5 true }) = some 2 :=
  ⟨rfl, rfl⟩

/-- V35: DEMSYM 6 with SPO = 5; V33: DEMSYM 0 counts one symbol. -/
theorem test_demsym :
    answered (runOne ⟨0x28000006, []⟩ { configured with ci := List.replicate 6 sample }) = some ⟨5, none⟩ ∧
    seen (fun t => t.symCnt) (runOne ⟨0x28000000, []⟩ configured) = some 1 := ⟨rfl, rfl⟩

/-- V35: DEMSTR 6 makes two chunks; V33: DEMSTR 0 none. -/
theorem test_demstr :
    seen (fun t => t.symCnt) (runOne ⟨0x29000006, []⟩ { configured with ci := List.replicate 6 sample }) = some 2 ∧
    seen (fun t => (t.co, t.symCnt)) (runOne ⟨0x29000000, []⟩ configured) = some ([], 0) := ⟨rfl, rfl⟩

/-- V4: with cp = N the transceiver is refused. -/
theorem test_refused_prefix :
    runOne ⟨0x20000000, []⟩ { State.reset with active := some (qpskLink 4 2 4) } = .refused .cyclicPrefixTooLong := rfl

/-- U5: an SNR not above 0 is refused. -/
theorem test_refused_snr (x : Scalar) (h : Config.num.lt Config.num.zero x = false) :
    exec (.wrreg 0x20 (.scalar x)) State.reset = .refused .snrNotPositive := by
  have h1 : Reg.ofNumber 0x20#8 = some .snrLin := by decide
  simp [exec, execWrreg, h1, State.writeReg, refusedWrite, h]

/-- U9, R306: a non-finite sample or payload item is refused where the host hands it over. -/
theorem test_refused_non_finite (v : Config.nonFiniteValues) :
    hostAct (.pushSamples [sample, ⟨.base, .nonFinite v⟩]) State.reset = .refused .nonFiniteValue ∧
    hostAct (.issue ⟨0x04000020, [.scalar (.nonFinite v)]⟩) State.reset = .refused .nonFiniteValue := ⟨rfl, rfl⟩

/-- R280, R281: the reset input empties the queues while a command is held. -/
theorem test_reset_while_held :
    seen (fun t => (t.bi, t.cfgValid, t.responses))
      (step { configured with bi := [true], port := .held ⟨0x10000004, []⟩, script := [.reset] }) = some ([], false, []) := by
  decide

/-- R97: the smallest tap count a table word can carry is 1. -/
theorem test_decodeTableWord_profld :
    decodeTableWord 32 0x31000001 = some (.profld [⟨.base, .base⟩] .base) ∧ decodeTableWord 32 0x31000000 = none := by decide

/-- A table word runs as the first instruction after reset. -/
theorem test_withFetchWord : answered (step (State.reset.withFetchWord 32 0x30000001)) = some ⟨0, none⟩ := by decide

/-- R112, U18, N = 2048, cp = 40, Nc = 300, QPSK: none, one command's and more than one command's OFDM symbols of 2088 samples, and
the one DEC of 10000 of them. -/
theorem test_commandCounts :
    commandCounts 0 2088 = [0] ∧ commandCounts (8035 * 2088) 2088 = [16777080] ∧
    commandCounts (10000 * 2088) 2088 = [16777080, 4102920] ∧ commandCounts (10000 * 300) 1 = [3000000] := by decide

/-- R112: nothing to send has a plan, whatever the size of an OFDM symbol. One OFDM symbol of more than CNT_MAX samples has none. -/
theorem test_transmit_too_long (v : Scalar) :
    (pseudoTransmit (qpskLink 0x1000000 1 0) 0 v).isSome = true ∧ pseudoTransmit (qpskLink 0x1000000 1 0) 1 v = none :=
  ⟨rfl, rfl⟩

/-! ### The datapath over whole numbers -/

/-- A number system of integers: the grid scaled by 1000, and the transforms of size 4 (factor 1/2, powers of j). -/
def intNum : NumSys ℤ where
  ofNat n := n
  add a b := a + b
  sub a b := a - b
  mul a b := a * b
  neg a := -a
  div a b := a / b
  lt a b := decide (a < b)
  eq a b := decide (a = b)
  invSqrtNat _ := 0
  cscale _ := 1000
  udft := fun n v =>
    if h : n = 4 then h ▸ quarter (-1) (h ▸ v) else v
  uidft := fun n v =>
    if h : n = 4 then h ▸ quarter 1 (h ▸ v) else v
where
  /-- The size-4 transform with kernel (σj)^(km) and factor 1/2. -/
  quarter (σ : ℤ) (v : Vector (Cplx ℤ) 4) : Vector (Cplx ℤ) 4 :=
    let turn : Cplx ℤ → Cplx ℤ := fun z => ⟨-σ * z.im, σ * z.re⟩
    let plus : Cplx ℤ → Cplx ℤ → Cplx ℤ := fun z w => ⟨z.re + w.re, z.im + w.im⟩
    Vector.ofFn fun k : Fin 4 =>
      let step : Cplx ℤ → Cplx ℤ := turn^[k.val]
      let s := plus (plus v[0] (step v[1])) (plus (step (step v[2])) (step (step (step v[3]))))
      ⟨s.re / 2, s.im / 2⟩

/-- `CONFIG 4, 2, 1, QPSK` over the integers, under the default enumeration. -/
def intLink : Active ℤ :=
  { bw := none, scs := none, ts := none, cptype := none, nfft := 4, nc := 2, cplen := 1, scfdm := false, mod := .qpsk,
    rom := points intNum .qpsk (Equiv.refl _) }

/-- V10: the QPSK set in full, and the corners of 64-QAM. -/
theorem test_points :
    (points intNum .qpsk (Equiv.refl _)).toList = [⟨-1000, -1000⟩, ⟨-1000, 1000⟩, ⟨1000, -1000⟩, ⟨1000, 1000⟩] ∧
    (points intNum .qam64 (Equiv.refl _)).toList.head? = some ⟨-7000, -7000⟩ ∧
    (points intNum .qam64 (Equiv.refl _)).toList.getLast? = some ⟨7000, 7000⟩ := by decide

/-- V12: chunks 1101 and 1 padded to 1000. -/
theorem test_encodeBits :
    encodeBits (points intNum .qam16 (Equiv.refl _)) [true, true, false, true, true] = [⟨3000, -1000⟩, ⟨1000, -3000⟩] := by
  decide

/-- V13: 101101 is index 45. -/
theorem test_encodeBits_qam64 :
    encodeBits (points intNum .qam64 (Equiv.refl _)) [true, false, true, true, false, true] = [⟨3000, 3000⟩] := by decide

/-- V16, and the ties of V17 at the origin and at (2 + 1j). -/
theorem test_decodeSymbols :
    decodeSymbols intNum (points intNum .qam16 (Equiv.refl _)) [⟨2846, -632⟩, ⟨0, 0⟩, ⟨2000, 1000⟩] =
      [true, true, false, true, false, true, false, true, true, false, true, false] := by decide

/-- V17: QPSK, r = 0.5j and r = 0.5. -/
theorem test_nearest_ties :
    nearest intNum (points intNum .qpsk (Equiv.refl _)) ⟨0, 500⟩ = 1 ∧
    nearest intNum (points intNum .qpsk (Equiv.refl _)) ⟨500, 0⟩ = 2 := by decide

/-- V50: DET gives the table's entry of index 9. -/
theorem test_detectSymbols :
    detectSymbols intNum (points intNum .qam16 (Equiv.refl _)) [⟨1265, -316⟩] = [⟨1000, -1000⟩] := by decide

/-- V20, in units of the unscaled grid times 1000. -/
theorem test_ofdmMod :
    (ofdmMod intNum intLink [false, false, true, true]).obuf =
      [⟨0, -1000⟩, ⟨0, 0⟩, ⟨-1000, 0⟩, ⟨-1000, -1000⟩, ⟨0, -1000⟩] := by decide

/-- V22: the second OFDM symbol, its bits padded. -/
theorem test_modStream :
    (modStream intNum intLink [false, false, true, true, false]).drop 5 =
      [⟨-1000, 0⟩, ⟨-1000, -1000⟩, ⟨0, -1000⟩, ⟨0, 0⟩, ⟨-1000, 0⟩] := by decide

/-- V30, and V32 with its short chunk. -/
theorem test_ofdmDemod :
    (ofdmDemod intNum intLink [⟨0, -1000⟩, ⟨0, 0⟩, ⟨-1000, 0⟩, ⟨-1000, -1000⟩, ⟨0, -1000⟩]).dbuf =
      [⟨-1000, -1000⟩, ⟨1000, 1000⟩] ∧
    (ofdmDemod intNum intLink [⟨0, -1000⟩, ⟨0, 0⟩, ⟨-1000, 0⟩]).dbuf = [⟨-500, 0⟩, ⟨0, 500⟩] := by decide

/-- V31: the stream of V22 gives the four symbols back. -/
theorem test_demStream :
    demStream intNum intLink (modStream intNum intLink [false, false, true, true, false]) =
      [⟨-1000, -1000⟩, ⟨1000, 1000⟩, ⟨-1000, -1000⟩, ⟨-1000, -1000⟩] := by decide

/-- V52: one of three pairs differs. -/
theorem test_symbolErrors :
    symbolErrors intNum [⟨0, 0⟩, ⟨1, 1⟩, ⟨0, 1⟩] [⟨0, 0⟩, ⟨1, 0⟩, ⟨0, 1⟩] = 1 := by decide

/-! ### A witness for the hypotheses of each statement -/

theorem test_hyp_DecodeOfEncode :
    (Instr.wrreg 0x20 (.scalar .base)).wellFormed = true ∧ (Instr.profld [⟨.base, .base⟩] .base).wellFormed = true ∧
    (Instr.ser 4095 4095).wellFormed = true := by decide

theorem test_hyp_EncodeOfDecode :
    decode ⟨0x04000000, [.scalar .base]⟩ = .ok (.wrreg 0 (.scalar .base)) ∧ decode ⟨0x10FFFFFF, []⟩ = .ok (.enc 0xFFFFFF) := by
  decide

theorem test_hyp_StepRunsIssuedCommand :
    (configured.issueCommand ⟨0x00000000, []⟩).port = .issued ⟨0, []⟩ ∧ decode ⟨0, []⟩ = .ok .nop := by decide

/-- One command for each ground of R103. -/
theorem test_hyp_StepRejectsIllegalCommand :
    IllegalByRule ⟨0xFF000000, []⟩ ∧ IllegalByRule ⟨0x05000001, []⟩ ∧ IllegalByRule ⟨0x03010000, []⟩ ∧
    IllegalByRule ⟨0x31000000, [.scalar .base]⟩ ∧ IllegalByRule ⟨0x04000005, [.scalar .base]⟩ :=
  ⟨.inl (by decide), .inr (.inl (by decide)), .inr (.inr (.inl (by decide))), .inr (.inr (.inr (.inl (by decide)))),
    .inr (.inr (.inr (.inr (by decide))))⟩

theorem test_hyp_RdregAnswersOrFails :
    (Reg.symCnt.number = 0x39 ∧ State.reset.readReg .symCnt = some (.nat32 0)) ∧
    (Reg.sBw.number = 0x00 ∧ State.reset.readReg .sBw = none) ∧
    (∀ r ∈ Reg.all, r.number ≠ 0x09 ∧ r.number ≠ 0xFF) := by decide

/-- The first and the last writable register, and the two-valued ones at both values; the clause of SNR_LIN has no hypothesis. -/
theorem test_hyp_WrregWritesOneRegister :
    (Reg.sBw.writable = true ∧ Reg.sBw ≠ .snrLin ∧ (Item.scalar .base).kind = Reg.sBw.kind) ∧
    (Reg.fs.writable = true ∧ Reg.fs ≠ .snrLin ∧ (Item.scalar .base).kind = Reg.fs.kind) ∧
    (Reg.sScfdm.writable = true ∧ Reg.sScfdm ≠ .snrLin ∧ (Item.nat32 0).kind = Reg.sScfdm.kind) ∧
    (Reg.sCptype.writable = true ∧ Reg.sCptype ≠ .snrLin ∧ (Item.nat32 1).kind = Reg.sCptype.kind) := by decide

theorem test_hyp_WrregIllegal :
    (∀ r ∈ Reg.all, r.number ≠ 0x40) ∧ (Reg.number .aBw = 0x10 ∧ Reg.writable .aBw = false) ∧
    (Reg.number .sMod = 0x05 ∧ (Item.scalar .base).kind ≠ Reg.sMod.kind) ∧
    (Item.nat32 2 ≠ .nat32 0 ∧ Item.nat32 2 ≠ .nat32 1) := by decide

/-- The smallest configuration, and Nc = N with cp = N. -/
theorem test_hyp_CommitReplacesConfiguration :
    ((staged (some 1) (some 1) (some 0) (some 2)).staged.mod = some (Modulation.ident .qam64) ∧
      1 ≤ (1 : Word).toNat ∧ (1 : Word).toNat ≤ (1 : Word).toNat) ∧
    ((staged (some 4) (some 4) (some 4) (some 0)).staged.mod = some (Modulation.ident .qpsk) ∧
      1 ≤ (4 : Word).toNat ∧ (4 : Word).toNat ≤ (4 : Word).toNat) := by decide

/-- Each clause at its boundary: the identifiers 3 and 2 on either side, N = 0, Nc = 0, Nc = N + 1. -/
theorem test_hyp_CommitErrorsInOrder :
    (staged (some 4) (some 2) none (some 0)).staged.cplen = none ∧
    3 ≤ (3 : Word).toNat ∧ (2 : Word).toNat ≤ 2 ∧ (4 : Word).toNat < (5 : Word).toNat ∧
    (staged (some 4) (some 5) (some 1) (some 2)).staged.nc = some 5 := by decide

theorem test_hyp_FailedCommitChangesNothing :
    ∃ t, exec .commit configured = .next t ∧ t.responses = configured.responses ++ [⟨6, none⟩] ∧ 6 ≠ 0 :=
  ⟨_, rfl, rfl, by decide⟩

theorem test_hyp_IndexIsMostSignificantFirst : ([true, false, true, true] : List Bit).length = 4 := by decide

/-- Also for DetPushesRomEntries and DecEmitsNearestIndex, with a full and an empty count. -/
theorem test_hyp_EncMapsChunks :
    configured.active = some (qpskLink 4 2 1) ∧ (0 : BitVec 24).toNat ≤ configured.bi.length ∧
    (3 : BitVec 24).toNat ≤ { configured with bi := [true, false, true] }.bi.length ∧
    (0 : BitVec 24).toNat ≤ configured.ci.length ∧
    (2 : BitVec 24).toNat ≤ { configured with ci := [sample, sample] }.ci.length := ⟨rfl, by decide, by decide, by decide, by decide⟩

theorem test_hyp_NearestIsFirstMinimum : intNum.Ordered := by
  simp only [NumSys.Ordered, NumSys.LtIrreflexive, intNum, decide_eq_false_iff_not, decide_eq_true_eq]
  exact ⟨fun x => by omega, fun x y z => by omega, fun x y z => by omega⟩

/-- Also for DetThenDecIsDec. -/
theorem test_hyp_CodecRoundTrip : 0 < 2 ∧ Separates (b := 2) intNum (points intNum .qpsk (Equiv.refl _)) := by
  refine ⟨by decide, ?_⟩
  unfold Separates
  decide

/-- A configuration with 1 ≤ Nc ≤ N and cp < N, and bits for one OFDM symbol exactly. -/
theorem test_hyp_ModsymModulatesOneSymbol :
    configured.active = some (qpskLink 4 2 1) ∧ (qpskLink 4 2 1).cplen.toNat < (qpskLink 4 2 1).nfft.toNat ∧
    (qpskLink 4 2 1).nc.toNat * (qpskLink 4 2 1).mod.bps ≤ { configured with bi := List.replicate 4 true }.bi.length :=
  ⟨rfl, by decide, by decide⟩

/-- The bounds of ModstrModulatesStream, ModstrIsModsymRepeated and DemstrDemodulatesStream, at the smallest configuration too. -/
theorem test_hyp_ModstrModulatesStream :
    (1 ≤ (qpskLink 4 2 1).nc.toNat ∧ (qpskLink 4 2 1).nc.toNat ≤ (qpskLink 4 2 1).nfft.toNat) ∧
    (1 ≤ (qpskLink 1 1 0).nc.toNat ∧ (qpskLink 1 1 0).nc.toNat ≤ (qpskLink 1 1 0).nfft.toNat) ∧
    (qpskLink 1 1 0).cplen.toNat < (qpskLink 1 1 0).nfft.toNat ∧
    (5 : BitVec 24).toNat ≤ { configured with bi := List.replicate 5 true }.bi.length ∧
    (11 : BitVec 24).toNat ≤ { configured with ci := List.replicate 11 sample }.ci.length := by decide

/-- Also for CyclicPrefixLaw, whose indices need cp ≥ 1. -/
theorem test_hyp_OfdmModStages :
    ([false, false, true, true] : List Bit).length = intLink.bpo ∧ intLink.nc.toNat ≤ intLink.nfft.toNat ∧
    intLink.cplen.toNat < intLink.nfft.toNat ∧ intLink.scfdm = false ∧ { intLink with scfdm := true }.scfdm = true ∧
    0 < ceilDiv 4 intLink.bpo ∧ 0 < intLink.cplen.toNat := by
  decide

theorem test_hyp_SymbolCommandsAreStreamCommands :
    (4 : BitVec 24).toNat = (qpskLink 4 2 1).nc.toNat * (qpskLink 4 2 1).mod.bps ∧
    (0 < (5 : BitVec 24).toNat ∧ (5 : BitVec 24).toNat ≤ (qpskLink 4 2 1).nfft.toNat + (qpskLink 4 2 1).cplen.toNat) := by
  decide

/-- A configuration over the reals: SC-FDM on, the full band. -/
noncomputable def realLink (n nc cp : Word) (scfdm : Bool) : Active ℝ :=
  { bw := none, scs := none, ts := none, cptype := none, nfft := n, nc := nc, cplen := cp, scfdm := scfdm, mod := .qpsk,
    rom := points NumSys.exact .qpsk (Equiv.refl _) }

theorem test_hyp_ScfdmFullBandIsIdentity :
    (realLink 4 4 1 true).scfdm = true ∧ (realLink 4 4 1 true).nc = (realLink 4 4 1 true).nfft ∧
    1 ≤ (realLink 4 4 1 true).nfft.toNat := ⟨rfl, rfl, by decide +revert⟩

theorem test_hyp_LinkRoundTrip :
    1 ≤ (realLink 4 2 1 true).nc.toNat ∧ (realLink 4 2 1 true).nc.toNat ≤ (realLink 4 2 1 true).nfft.toNat ∧
    (realLink 4 2 1 true).cplen.toNat < (realLink 4 2 1 true).nfft.toNat ∧
    (realLink 4 2 1 true).rom = points NumSys.exact .qpsk (Equiv.refl _) :=
  ⟨by simp [realLink], by simp [realLink], by simp [realLink], rfl⟩

/-- The second clause has the hypotheses of LinkRoundTrip. -/
theorem test_hyp_PaprAtLeastOne : meanMagSq [⟨1, 0⟩] ≠ 0 := by simp [meanMagSq, energy, magSq]

/-- A full chunk and an empty one, and one sample too many. -/
theorem test_hyp_DemsymDemodulatesOneChunk :
    (5 : BitVec 24).toNat ≤ (qpskLink 4 2 1).nfft.toNat + (qpskLink 4 2 1).cplen.toNat ∧
    (5 : BitVec 24).toNat ≤ { configured with ci := List.replicate 5 sample }.ci.length ∧
    (0 : BitVec 24).toNat ≤ configured.ci.length ∧
    (qpskLink 4 2 1).nfft.toNat + (qpskLink 4 2 1).cplen.toNat < (6 : BitVec 24).toNat := by decide

theorem test_hyp_OfdmDemodStages :
    ([⟨0, 0⟩, ⟨1, 0⟩, ⟨0, 1⟩] : List (Cplx ℤ)).length ≤ intLink.nfft.toNat + intLink.cplen.toNat ∧
    intLink.nc.toNat ≤ intLink.nfft.toNat ∧ intLink.scfdm = false ∧ { intLink with scfdm := true }.scfdm = true := by decide

theorem test_hyp_ExactTransformLaws : ((1 : ℝ) = 1 ∨ (1 : ℝ) = -1) ∧ ((-1 : ℝ) = 1 ∨ (-1 : ℝ) = -1) ∧ 1 ≤ 1 :=
  ⟨.inl rfl, .inr rfl, le_rfl⟩

theorem test_hyp_DemodulatorIsAdditive :
    ([⟨1, 0⟩] : List (Cplx ℝ)).length = ([⟨0, 1⟩] : List (Cplx ℝ)).length ∧
    ([⟨1, 0⟩] : List (Cplx ℝ)).length ≤ (realLink 4 2 1 true).spo ∧
    (realLink 4 2 1 true).nc.toNat ≤ (realLink 4 2 1 true).nfft.toNat :=
  ⟨rfl, by simp [realLink, Active.spo], by simp [realLink]⟩

theorem test_hyp_ChselBuildsChannel : (multipath 0).fs = some .base := by decide

theorem test_hyp_NamedErrorsOfChselAndSer :
    State.reset.fsValid = false ∧ (0 : BitVec 8) ≠ 1 ∧ (0 : BitVec 8) ≠ 2 ∧ (3 : BitVec 8) ≠ 2 ∧ (2 : BitVec 12) ≠ 3 := by decide

theorem test_hyp_ProfldReplacesProfile : 1 ≤ oneTap.taps.length ∧ oneTap.taps.length ≤ 255 ∧
    1 ≤ (List.replicate 255 (default : Tap)).length ∧ (List.replicate 255 (default : Tap)).length ≤ 255 := by
  simp only [List.length_replicate, oneTap, List.length_singleton]
  omega

/-- Also for ChtxTransmits, both counts. -/
theorem test_hyp_FadeKeepsLength :
    (multipath 3).ch = .rayleigh ⟨.base, some oneTap⟩ ∧ (multipath 3).profile = some oneTap ∧
    (multipath 3).chFs = some .base ∧ (multipath 3).snrLin = some .base ∧ (3 : BitVec 24).toNat ≤ (multipath 3).ci.length ∧
    (3 : BitVec 24) ≠ 0 ∧ (0 : BitVec 24).toNat ≤ (multipath 0).ci.length := by decide

/-- Under AWGN and under multipath. -/
theorem test_hyp_NoiseAddsDraw :
    (multipath 2).ch ≠ .none ∧ { multipath 2 with ch := .awgn }.ch ≠ .none ∧ (multipath 2).snrLin = some .base ∧
    (2 : BitVec 24).toNat ≤ (multipath 2).ci.length := by decide

theorem test_hyp_ExactMeanPower : ([⟨0, 0⟩] : List (Cplx ℝ)) ≠ [] := by simp

theorem test_hyp_ChtxIsFadeThenNoise :
    (multipath 3).ci.length = (3 : BitVec 24).toNat ∧ (multipath 3).co = [] ∧ (multipath 3).snrLin = some .base := by decide

theorem test_hyp_ChannelAndLinkIndependent :
    channelCommand (.chtx 4) = true ∧ linkCommand (.modstr 4) = true ∧ linkCommand .commit = true := by decide

theorem test_hyp_SerCountsErrors :
    2 * (3 : BitVec 12).toNat ≤ (multipath 6).ci.length ∧ 2 * (0 : BitVec 12).toNat ≤ State.reset.ci.length := by decide

theorem test_hyp_UnconfiguredCommandsFail :
    State.reset.cfgValid = false ∧ State.reset.profValid = false ∧ State.reset.ch = .none ∧ State.reset.snrValid = false ∧
    ({ multipath 0 with profile := none }.ch = .rayleigh ⟨.base, some oneTap⟩ ∧
      { multipath 0 with profile := none }.profValid = false) := by decide

/-- An ENC of two bits with one bit there: its checks pass, and with padding it would answer. -/
theorem test_hyp_ShortInputIsHeld :
    let s := { configured with bi := [true], port := .issued ⟨0x10000002, []⟩ }
    s.port = .issued ⟨0x10000002, []⟩ ∧ decode ⟨0x10000002, []⟩ = .ok (.enc 2) ∧ ChecksPass (.enc 2) s ∧
    s.bi.length < popsBi s (.enc 2) := ⟨rfl, by decide, ⟨_, rfl, rfl⟩, by decide⟩

/-- An ENC that a push of bits completes, and a DET that a push of samples completes. -/
theorem test_hyp_PushLiftsHold :
    (let s : State := { configured with bi := [true], port := .held (encode (.enc 2)), script := [.pushBits [false]] }
     decode (encode (.enc 2)) = .ok (.enc 2) ∧ ChecksPass (.enc 2) s ∧ 0 < popsBi s (.enc 2) + popsCi (.enc 2) ∧
     popsBi s (.enc 2) ≤ (s.bi ++ [false]).length) ∧
    (let s : State := { configured with ci := [sample], port := .held (encode (.det 2)), script := [.pushSamples [sample]] }
     decode (encode (.det 2)) = .ok (.det 2) ∧ ChecksPass (.det 2) s ∧ 0 < popsBi s (.det 2) + popsCi (.det 2) ∧
     [sample].all Cplx.isFinite = true ∧ popsCi (.det 2) ≤ (s.ci ++ [sample]).length) :=
  ⟨⟨by decide, ⟨_, rfl, rfl⟩, by decide, by decide⟩, by decide, ⟨_, rfl, rfl⟩, by decide, by decide, by decide⟩

/-- Also for EveryCommandAnswersOnceOrHolds and OnlyItsCommandChanges. -/
theorem test_hyp_ErrorsArePrecise :
    ∃ t, exec (.enc 2) State.reset = .next t ∧ t.responses = State.reset.responses ++ [⟨6, none⟩] ∧ 6 ≠ 0 :=
  ⟨_, rfl, rfl, by decide⟩

theorem test_hyp_QueueUseByCommand :
    ConfigInv (multipath 6) ∧
    ∃ t, exec (.ser 3 3) (multipath 6) = .next t ∧ t.responses = (multipath 6).responses ++ [⟨0, none⟩] :=
  ⟨fun a h => (by cases h), _, rfl, rfl⟩

theorem test_hyp_OnlyItsCommandChanges : ∃ t, exec .modsym { configured with bi := List.replicate 4 true } = .next t :=
  ⟨_, rfl⟩

theorem test_hyp_InformationalRegistersUnused :
    (∀ r, Instr.modsym ≠ .rdreg r) ∧ Instr.modsym ≠ .commit ∧ Instr.modsym ≠ .reset ∧ (∀ r v, Instr.modsym ≠ .wrreg r v) ∧
    (∀ r, Instr.reset ≠ .rdreg r) ∧ Instr.reset ≠ .commit := by simp

/-- A state with a channel that meets the invariant, and a step of it. -/
theorem test_hyp_StepKeepsInvariant :
    let s := ({ multipath 3 with snrLin := none } : State).issueCommand ⟨0x32000002, []⟩
    Inv s ∧ ∃ t, step s = .next t := by
  refine ⟨⟨fun a h => (by cases h), ⟨?_, ?_, ?_, rfl⟩, by unfold StatusInv; decide, ⟨rfl, rfl⟩, by decide, ?_⟩, _, rfl⟩
  · intro f h; cases h; exact ⟨rfl, rfl, rfl⟩
  · intro p h; cases h; exact ⟨by decide, by decide⟩
  · intro v h; cases h
  · intro c h; obtain h | h := h <;> cases h; rfl

theorem test_hyp_HostLiberties :
    let s := { multipath 2 with no := [sample], bo := [true], co := [sample] }
    s.port = .idle ∧ 1 ≤ s.no.length ∧ 1 ≤ s.bo.length ∧ 1 ≤ s.co.length ∧ s.script = [] := by decide

/-- `CONFIG 4, 2, 1, QPSK, 1`, and the five commands without SC-FDM. -/
theorem test_hyp_ConfigPseudoInstructionConfigures :
    let s := { State.reset with script := pseudoConfig 4 2 1 0 (some 1) ++ [HostAction.popBits 0] }
    s.port = .idle ∧ 1 ≤ (2 : Word).toNat ∧ (2 : Word).toNat ≤ (4 : Word).toNat ∧
    s.script = pseudoConfig 4 2 1 (Modulation.ident .qpsk) ((some true).map boolWord) ++ [HostAction.popBits 0] ∧
    (pseudoConfig 4 2 1 0 none).length = 5 := by decide

end Sys2Proof.Machine
end

section
/-! The exact point sets (R11, R142, R151) and the exact transforms (R12, R13, R14). -/

namespace Sys2Proof

/-! ### Energy of a vector of samples -/

theorem magSq_ofComplex (z : ℂ) : magSq (Cplx.ofComplex z) = Complex.normSq z := by
  simp only [magSq, Cplx.ofComplex, Complex.normSq_apply]
  ring

theorem magSq_eq_normSq_toComplex (z : Cplx ℝ) : magSq z = Complex.normSq z.toComplex := magSq_ofComplex z.toComplex

theorem energy_toList_ofFn {n : ℕ} (f : Fin n → Cplx ℝ) : energy (Vector.ofFn f).toList = ∑ i, magSq (f i) := by
  simp [energy, Vector.toList_ofFn, List.map_ofFn, List.sum_ofFn]

theorem energy_toList {n : ℕ} (v : Vector (Cplx ℝ) n) : energy v.toList = ∑ i : Fin n, magSq v[i] := by
  rw [← energy_toList_ofFn]
  congr
  ext i hi : 1
  simp

/-! ### The exact point sets -/

theorem Modulation.side_even (m : Modulation) : Even m.side := by cases m <;> decide

/-- `|g|²` on the unscaled grid of R11. -/
def gridNormSq (g : Int × Int) : Int := g.1 ^ 2 + g.2 ^ 2

/-- A level of an axis of the grid is odd and lies in `[-(L-1), L-1]`. -/
theorem level_sq_bounds {L j : ℕ} (hL : Even L) (hj : j < L) :
    1 ≤ (2 * j - (L - 1) : ℤ) ^ 2 ∧ (2 * j - (L - 1) : ℤ) ^ 2 ≤ ((L : ℤ) - 1) ^ 2 := by
  obtain ⟨h, rfl⟩ := hL
  have hne : (2 * j - ((h + h : ℕ) - 1) : ℤ) ≠ 0 := by omega
  exact ⟨(pow_pos (abs_pos.mpr hne) 2).trans_eq (sq_abs _), sq_le_sq' (by omega) (by omega)⟩

theorem gridNormSq_bounds (m : Modulation) {i : ℕ} (hi : i < 2 ^ m.bps) :
    2 ≤ gridNormSq (gridPoint m i) ∧ gridNormSq (gridPoint m i) ≤ 2 * ((m.side : ℤ) - 1) ^ 2 := by
  rw [m.size_eq] at hi
  have hpos : 0 < m.side := Nat.pos_of_mul_pos_left (i.zero_le.trans_lt hi)
  have hI := level_sq_bounds m.side_even (Nat.div_lt_of_lt_mul hi)
  have hQ := level_sq_bounds m.side_even (Nat.mod_lt i hpos)
  simp only [gridNormSq, gridPoint]
  omega

/-- R11: the grid's total energy is `M · E_M` with `E_M = 2(M-1)/3`. -/
theorem sum_gridNormSq (m : Modulation) :
    3 * ∑ i : Fin (2 ^ m.bps), gridNormSq (gridPoint m i) = 2 ^ m.bps * (2 * (2 ^ m.bps - 1)) := by
  cases m <;> decide

theorem gridEnergy_pos (m : Modulation) : 0 < gridEnergy m := by
  have : (1 : ℝ) < 2 ^ m.bps := one_lt_pow₀ one_lt_two m.bps_pos.ne'
  simp only [gridEnergy]
  linarith

theorem NumSys.exact_cscale_sq (m : Modulation) : NumSys.exact.cscale m ^ 2 = 1 / gridEnergy m := by
  simp [NumSys.exact, Real.sq_sqrt (gridEnergy_pos m).le]

theorem NumSys.exact_mul (a b : ℝ) : NumSys.exact.mul a b = a * b := rfl

theorem NumSys.exact_ofInt (i : ℤ) : NumSys.exact.ofInt i = i := by
  rw [NumSys.ofInt]
  split
  next h =>
    obtain ⟨k, rfl⟩ := Int.eq_ofNat_of_zero_le h
    simp [NumSys.exact]
  next h =>
    obtain ⟨k, hk⟩ := Int.eq_ofNat_of_zero_le (show 0 ≤ -i by omega)
    obtain rfl : i = -k := by omega
    simp [NumSys.exact]

theorem magSq_scalePoint_exact (m : Modulation) (g : Int × Int) :
    magSq (scalePoint NumSys.exact m g) = NumSys.exact.cscale m ^ 2 * gridNormSq g := by
  simp only [magSq, scalePoint, NumSys.exact_ofInt, NumSys.exact_mul, gridNormSq]
  push_cast
  ring

theorem energy_points_exact (m : Modulation) (e : Equiv.Perm (Fin (2 ^ m.bps))) :
    energy (points NumSys.exact m e).toList = 2 ^ m.bps := by
  have hsum : (3 : ℝ) * ∑ i : Fin (2 ^ m.bps), (gridNormSq (gridPoint m i) : ℝ) = 2 ^ m.bps * (2 * (2 ^ m.bps - 1)) := by
    exact_mod_cast sum_gridNormSq m
  have hE : (gridEnergy m) ≠ 0 := (gridEnergy_pos m).ne'
  calc energy (points NumSys.exact m e).toList
      = ∑ i, magSq (scalePoint NumSys.exact m (gridPoint m (e i))) := energy_toList_ofFn _
    _ = ∑ i : Fin (2 ^ m.bps), magSq (scalePoint NumSys.exact m (gridPoint m i)) :=
        Equiv.sum_comp e fun i : Fin (2 ^ m.bps) => magSq (scalePoint NumSys.exact m (gridPoint m i))
    _ = 1 / gridEnergy m * ∑ i : Fin (2 ^ m.bps), (gridNormSq (gridPoint m i) : ℝ) := by
        simp only [magSq_scalePoint_exact, NumSys.exact_cscale_sq, Finset.mul_sum]
    _ = 2 ^ m.bps := by
        field_simp
        simp only [gridEnergy]
        linarith

theorem magSq_bounds_of_mem_points {m : Modulation} {e : Equiv.Perm (Fin (2 ^ m.bps))} {p : Cplx ℝ}
    (hp : p ∈ (points NumSys.exact m e).toList) :
    2 * NumSys.exact.cscale m ^ 2 ≤ magSq p ∧ magSq p ≤ 2 * (m.side - 1) ^ 2 * NumSys.exact.cscale m ^ 2 := by
  obtain ⟨i, rfl⟩ : ∃ i, scalePoint NumSys.exact m (gridPoint m (e i)) = p := by
    simpa [points, List.mem_ofFn] using hp
  obtain ⟨hlo, hhi⟩ := gridNormSq_bounds m (e i).isLt
  have hlo' : (2 : ℝ) ≤ gridNormSq (gridPoint m (e i)) := by exact_mod_cast hlo
  have hhi' : (gridNormSq (gridPoint m (e i)) : ℝ) ≤ 2 * ((m.side : ℝ) - 1) ^ 2 := by exact_mod_cast hhi
  rw [magSq_scalePoint_exact, mul_comm _ (gridNormSq _ : ℝ)]
  exact ⟨mul_le_mul_of_nonneg_right hlo' (sq_nonneg _), mul_le_mul_of_nonneg_right hhi' (sq_nonneg _)⟩

/-- Settles O20: the grid's energy is a finite sum, and every level is odd and at most `L - 1` in magnitude. -/
theorem pointSetsHaveUnitEnergy : Obligations.PointSetsHaveUnitEnergy := by
  intro m e
  refine ⟨by simp [energy_points_exact], fun p hp => ?_⟩
  obtain ⟨hlo, hhi⟩ := magSq_bounds_of_mem_points hp
  have hscale : 0 < NumSys.exact.cscale m ^ 2 := by
    rw [NumSys.exact_cscale_sq]
    exact one_div_pos.mpr (gridEnergy_pos m)
  exact ⟨hlo, hhi, by linarith⟩

/-! ### The exact transforms as unitary matrices -/

/-- `exp_j(sign · 2π/n)`, whose powers are the kernel of the transforms. -/
noncomputable def twiddleRoot (sign : ℝ) (n : ℕ) : ℂ := Complex.exp (((sign * (2 * Real.pi / n) : ℝ) : ℂ) * Complex.I)

theorem twiddle_eq_pow (sign : ℝ) (n k m : ℕ) : twiddle sign n k m = twiddleRoot sign n ^ (k * m) := by
  rw [twiddle, twiddleRoot, ← Complex.exp_nat_mul]
  congr 1
  push_cast
  ring

theorem star_twiddle (sign : ℝ) (n k m : ℕ) : star (twiddle sign n k m) = twiddle (-sign) n m k := by
  simp only [twiddle, ← starRingEnd_apply, ← Complex.exp_conj, map_mul, Complex.conj_ofReal, Complex.conj_I]
  congr 1
  push_cast
  ring

theorem twiddleRoot_neg (sign : ℝ) (n : ℕ) : twiddleRoot (-sign) n = (twiddleRoot sign n)⁻¹ := by
  simp [twiddleRoot, ← Complex.exp_neg]

theorem twiddleRoot_isPrimitiveRoot {sign : ℝ} (hs : sign = 1 ∨ sign = -1) {n : ℕ} (hn : n ≠ 0) :
    IsPrimitiveRoot (twiddleRoot sign n) n := by
  have hone : IsPrimitiveRoot (twiddleRoot 1 n) n := by
    convert Complex.isPrimitiveRoot_exp n hn using 1
    rw [twiddleRoot]
    congr 1
    push_cast
    ring
  obtain rfl | rfl := hs
  · exact hone
  · rw [twiddleRoot_neg]
    exact hone.inv

/-- The kernels of opposite sign are orthogonal: a geometric sum over a full period of a root of unity. -/
theorem sum_twiddle_neg_mul_twiddle {sign : ℝ} (hs : sign = 1 ∨ sign = -1) {n : ℕ} (k m : Fin n) :
    ∑ i : Fin n, twiddle (-sign) n k i * twiddle sign n i m = if k = m then (n : ℂ) else 0 := by
  have hζ := twiddleRoot_isPrimitiveRoot hs (Fin.pos k).ne'
  set ζ := twiddleRoot sign n
  have hζ0 : ζ ≠ 0 := Complex.exp_ne_zero _
  have hterm (i : ℕ) : twiddle (-sign) n k i * twiddle sign n i m = (ζ ^ ((m : ℤ) - k)) ^ i := by
    rw [twiddle_eq_pow, twiddle_eq_pow, twiddleRoot_neg, zpow_sub₀ hζ0]
    simp only [zpow_natCast, inv_pow, div_pow, ← pow_mul, mul_comm i]
    field
  simp only [hterm]
  rw [Fin.sum_univ_eq_sum_range fun i => (ζ ^ ((m : ℤ) - k)) ^ i]
  split
  next h => simp [h]
  next h =>
    have hne : ζ ^ ((m : ℤ) - k) ≠ 1 := by
      rw [Ne, hζ.zpow_eq_one_iff_dvd]
      intro hdvd
      have hzero := Int.eq_zero_of_abs_lt_dvd hdvd (by rw [abs_lt]; omega)
      omega
    have hperiod : (ζ ^ ((m : ℤ) - k)) ^ n = 1 := by
      rw [← zpow_natCast, zpow_comm, zpow_natCast, hζ.pow_eq_one, one_zpow]
    rw [geom_sum_eq hne, hperiod, sub_self, zero_div]

section
open Matrix

/-- The matrix of the transform of R12 and R13, the factor 1/√n included. -/
noncomputable def transformMatrix (sign : ℝ) (n : ℕ) : Matrix (Fin n) (Fin n) ℂ :=
  of fun k m => ((1 / √(n : ℝ) : ℝ) : ℂ) * twiddle sign n k m

/-- A vector of samples as a function to the complex numbers. -/
def complexVec {n : ℕ} (v : Vector (Cplx ℝ) n) : Fin n → ℂ := fun i => v[i].toComplex

theorem complexVec_injective {n : ℕ} : Function.Injective (complexVec (n := n)) := by
  intro v w h
  ext i hi : 1
  exact congrArg Cplx.ofComplex (congrFun h ⟨i, hi⟩)

theorem complexVec_ofFn {n : ℕ} (f : Fin n → ℂ) : complexVec (Vector.ofFn fun i => Cplx.ofComplex (f i)) = f := by
  ext i
  simp [complexVec, Cplx.ofComplex, Cplx.toComplex]

theorem complexVec_exactTransform (sign : ℝ) (n : ℕ) (v : Vector (Cplx ℝ) n) :
    complexVec (exactTransform sign n v) = transformMatrix sign n *ᵥ complexVec v := by
  rw [exactTransform, complexVec_ofFn]
  ext k
  simp [transformMatrix, mulVec, dotProduct, complexVec, Finset.mul_sum, mul_assoc, mul_comm]

theorem energy_eq_dotProduct {n : ℕ} (v : Vector (Cplx ℝ) n) :
    ((energy v.toList : ℝ) : ℂ) = star (complexVec v) ⬝ᵥ complexVec v := by
  simp [energy_toList, magSq_eq_normSq_toComplex, dotProduct, complexVec, Complex.normSq_eq_conj_mul_self]

theorem conjTranspose_transformMatrix (sign : ℝ) (n : ℕ) :
    (transformMatrix sign n)ᴴ = transformMatrix (-sign) n := by
  ext k m
  simp [transformMatrix, ← star_twiddle]

theorem transformMatrix_neg_mul_self {sign : ℝ} (hs : sign = 1 ∨ sign = -1) (n : ℕ) :
    transformMatrix (-sign) n * transformMatrix sign n = 1 := by
  ext k m
  have hn : (n : ℂ) ≠ 0 := Nat.cast_ne_zero.mpr (Fin.pos k).ne'
  have hsqrt : ((1 / √(n : ℝ) : ℝ) : ℂ) * ((1 / √(n : ℝ) : ℝ) : ℂ) = (n : ℂ)⁻¹ := by
    rw [← Complex.ofReal_mul, one_div_mul_one_div, Real.mul_self_sqrt n.cast_nonneg]
    simp
  simp only [mul_apply, transformMatrix, of_apply, mul_mul_mul_comm, hsqrt, ← Finset.mul_sum,
    sum_twiddle_neg_mul_twiddle hs, one_apply, mul_ite, mul_zero, inv_mul_cancel₀ hn]

theorem transformMatrix_one (sign : ℝ) : transformMatrix sign 1 = 1 := by
  ext k m
  obtain rfl := Subsingleton.elim k m
  simp [transformMatrix, twiddle]

theorem exactTransform_neg_exactTransform {sign : ℝ} (hs : sign = 1 ∨ sign = -1) {n : ℕ} (v : Vector (Cplx ℝ) n) :
    exactTransform (-sign) n (exactTransform sign n v) = v :=
  complexVec_injective <| by
    simp only [complexVec_exactTransform, mulVec_mulVec, transformMatrix_neg_mul_self hs, one_mulVec]

theorem energy_exactTransform {sign : ℝ} (hs : sign = 1 ∨ sign = -1) {n : ℕ} (v : Vector (Cplx ℝ) n) :
    energy (exactTransform sign n v).toList = energy v.toList := by
  apply Complex.ofReal_injective
  rw [energy_eq_dotProduct, energy_eq_dotProduct, complexVec_exactTransform, star_mulVec, ← dotProduct_mulVec, mulVec_mulVec,
    conjTranspose_transformMatrix, transformMatrix_neg_mul_self hs, one_mulVec]

theorem exactTransform_linear (sign : ℝ) {n : ℕ} (v w : Vector (Cplx ℝ) n) (x y : ℂ) :
    exactTransform sign n
        (Vector.ofFn fun i : Fin n => Cplx.ofComplex (x * v[i].toComplex + y * w[i].toComplex)) =
      Vector.ofFn fun i : Fin n => Cplx.ofComplex
        (x * (exactTransform sign n v)[i].toComplex + y * (exactTransform sign n w)[i].toComplex) :=
  complexVec_injective <| by
    have hcomb (a b : Vector (Cplx ℝ) n) :
        (fun i : Fin n => x * a[i].toComplex + y * b[i].toComplex) = x • complexVec a + y • complexVec b := rfl
    simp only [complexVec_exactTransform, complexVec_ofFn]
    rw [hcomb, hcomb, complexVec_exactTransform, complexVec_exactTransform, mulVec_add, mulVec_smul, mulVec_smul]

theorem exactTransform_one (sign : ℝ) (v : Vector (Cplx ℝ) 1) : exactTransform sign 1 v = v :=
  complexVec_injective <| by rw [complexVec_exactTransform, transformMatrix_one, one_mulVec]

end

/-- Settles O33: the transforms of opposite sign are unitary matrices, each the adjoint of the other. -/
theorem exactTransformLaws : Obligations.ExactTransformLaws := by
  intro σ hσ n _ v w
  refine ⟨exactTransform_neg_exactTransform hσ v, energy_exactTransform hσ v, exactTransform_linear σ v w, ?_⟩
  rintro rfl
  exact exactTransform_one σ v

end Sys2Proof
end

section
/-! The block's registers under every command: which command writes which (R26, R33, R67, R121, R218, R303), and the invariant that every
step keeps. Both are read off `exec_next`: a command that answers has left the block, or has had its effect on it. -/

namespace Sys2Proof.Machine

/-! ### The block, apart from the error record, the port and the responses -/

/-- Two states differ at most in the error record, the command port and the responses. -/
def SameBlock (s t : State) : Prop :=
  t = { s with err := t.err, lastErr := t.lastErr, errCmd := t.errCmd, port := t.port, responses := t.responses }

/-- A command that answers has left the block as it was or has had its effect on it. -/
theorem exec_next_block {i : Instr} {s t : State} (h : exec i s = .next t) :
    ∃ u, (u = s ∨ Effect i s u) ∧ SameBlock u t := by
  obtain ⟨rfl, -⟩ | ⟨e, rfl⟩ | ⟨r, v, -, rfl⟩ | ⟨u, hu, rfl⟩ := exec_next h
  · exact ⟨s, .inl rfl, rfl⟩
  · exact ⟨s, .inl rfl, rfl⟩
  · exact ⟨s, .inl rfl, rfl⟩
  · exact ⟨u, .inr hu, rfl⟩

/-! ### Which command writes which register -/

/-- What a command other than RESET leaves, register by register: each only for the commands that do not write it. -/
structure LeavesOthers (i : Instr) (s t : State) : Prop where
  active : i ≠ .commit → t.active = s.active
  staged : (∀ r v, i ≠ .wrreg r v) → SameStaged s t
  ch : (∀ c, i ≠ .chsel c) → (∀ p f, i ≠ .profld p f) → t.ch = s.ch
  profile : (∀ p f, i ≠ .profld p f) → t.profile = s.profile
  chFs : (∀ c, i ≠ .chsel c) → t.chFs = s.chFs
  serCounts : (∀ a b, i ≠ .ser a b) → t.serErrs = s.serErrs ∧ t.serTotal = s.serTotal
  powers : (∀ n, i ≠ .noise n) → (∀ n, i ≠ .chtx n) → t.psig = s.psig ∧ t.pnoise = s.pnoise
  sequencing : transceiver i = false → t.symCnt = s.symCnt ∧ t.phase = s.phase ∧ t.symIdx = s.symIdx
  buf : transceiver i = false → i ≠ .commit → t.buf = s.buf
  errorRecord : i ≠ .clrerr → t.err = s.err ∧ t.lastErr = s.lastErr ∧ t.errCmd = s.errCmd
  ci : t.ci <:+ s.ci

theorem Effect.leavesOthers {i : Instr} {s u : State} (h : Effect i s u) (hr : i ≠ .reset) : LeavesOthers i s u := by
  cases i <;> simp only [Effect] at h
  case reset => exact absurd rfl hr
  case wrreg => obtain ⟨r, -, hw, -⟩ := h; rw [writeReg_frame hw]; constructor <;> simp [transceiver]
  case chsel => obtain ⟨-, rfl⟩ | ⟨-, f, -, rfl⟩ := h <;> constructor <;> simp [transceiver, SameStaged]
  all_goals
    repeat' (first | subst h | obtain ⟨_, h⟩ := h)
    constructor <;> simp [transceiver, SameStaged, List.drop_suffix]

/-- ENC of no bits makes no symbol (R145). -/
theorem encodeBits_nil {K : Type} {m : Modulation} (rom : Vector (Cplx K) (2 ^ m.bps)) : encodeBits rom [] = [] := by
  rw [← List.length_eq_zero_iff, encodeBits_length, List.length_nil, ceilDiv_zero m.bps_pos]

/-- A command that pops nothing and is not of the transceiver leaves the queues: a count of 0 moves nothing. -/
theorem Effect.sameQueues {i : Instr} {s u : State} (h : Effect i s u) (hr : i ≠ .reset) (hb : popsBi s i = 0)
    (hc : popsCi i = 0) (ht : transceiver i = false) : SameQueues s u := by
  cases i <;> simp only [Effect, popsBi, popsCi, transceiver, Bool.true_eq_false] at h hb hc ht
  case reset => exact absurd rfl hr
  case wrreg => obtain ⟨r, -, hw, -⟩ := h; rw [writeReg_frame hw]; simp [SameQueues]
  case chsel => obtain ⟨-, rfl⟩ | ⟨-, f, -, rfl⟩ := h <;> simp [SameQueues]
  case enc => obtain ⟨a, -, -, rfl⟩ := h; simp [SameQueues, hb, encodeBits_nil]
  case dec => obtain ⟨a, -, -, rfl⟩ := h; simp [SameQueues, hc, decodeSymbols]
  case det => obtain ⟨a, -, -, rfl⟩ := h; simp [SameQueues, hc, detectSymbols]
  case fade => obtain ⟨-, y, d, hy, rfl⟩ := h; simp_all [SameQueues]
  case noise => obtain ⟨-, y, w, p, q, d, ⟨hy, hw, -⟩, rfl⟩ := h; simp_all [SameQueues]
  case chtx => obtain ⟨-, y, w, p, q, d, ⟨hy, hw, -⟩, rfl⟩ := h; simp_all [SameQueues]
  case ser => obtain ⟨-, -, k, -, rfl⟩ := h; simp [SameQueues, hc]
  case nop => obtain rfl := h; simp [SameQueues]
  case clrerr => obtain rfl := h; simp [SameQueues]
  case commit => obtain ⟨nfft, nc, cplen, m, -, -, -, -, rfl⟩ := h; simp [SameQueues]
  case profld => obtain ⟨-, rfl⟩ := h; simp [SameQueues]

/-- Settles O55: an answering command has left the block or had its effect, and no effect writes another command's registers. -/
theorem onlyItsCommandChanges : Obligations.OnlyItsCommandChanges := by
  intro i s t h hr
  obtain ⟨u, hu, ht⟩ := exec_next_block h
  have hregs : LeavesOthers i s u := by
    obtain rfl | hu := hu
    · constructor <;> simp [SameStaged]
    · exact hu.leavesOthers hr
  have hqueues : popsBi s i = 0 → popsCi i = 0 → transceiver i = false → SameQueues s u := by
    obtain rfl | hu := hu
    · simp [SameQueues]
    · exact hu.sameQueues hr
  rw [ht]
  exact ⟨hregs.active, hregs.staged, hregs.ch, hregs.profile, hregs.chFs, hregs.serCounts, hregs.powers, hregs.sequencing,
    hregs.buf, hqueues⟩

/-! ### The error record -/

theorem errorCode_pos (e : ErrorCode) : 0 < errorCode e := by cases e <;> decide

theorem errorCode_le (e : ErrorCode) : errorCode e ≤ 7 := by cases e <;> decide

/-- Settles O52: the four cases of `exec_next`; only `raise` touches the error record, and it adds a bit and answers its code. -/
theorem everyCommandAnswersOnceOrHolds : Obligations.EveryCommandAnswersOnceOrHolds := by
  intro i s t h
  obtain ⟨rfl, -⟩ | ⟨e, rfl⟩ | ⟨r, v, -, rfl⟩ | ⟨u, hu, rfl⟩ := exec_next h
  · exact .inl rfl
  · refine .inr ⟨_, rfl, rfl, fun _ _ => ⟨?_, fun h0 => absurd h0 (errorCode_pos e).ne'⟩⟩
    ext k
    simp +contextual
  · exact .inr ⟨_, rfl, rfl, fun _ _ => by simp⟩
  · refine .inr ⟨⟨0, none⟩, by simp [hu.responses], rfl, fun hr hc => ?_⟩
    simp [(hu.leavesOthers hr).errorRecord hc]

/-! ### The invariant at reset -/

/-- Settles O57: at reset there is no configuration, channel, profile or SNR for a clause to speak of, and the rest is literal. -/
theorem resetMeetsInvariant : Obligations.ResetMeetsInvariant := by
  have hconfig : ConfigInv State.reset := by simp [ConfigInv, State.reset]
  have hchannel : ChannelInv State.reset := by simp [ChannelInv, State.reset]
  have hstatus : StatusInv State.reset := by simp [StatusInv, State.reset]
  have hfinite : FiniteInv State.reset := by simp [FiniteInv, State.reset]
  exact ⟨hconfig, hchannel, hstatus, ⟨rfl, rfl⟩, hfinite⟩

/-- Resetting the block keeps the port, so only the payload on it carries over (logs 14, 29). -/
theorem Inv.resetBlock {s : State} (h : Inv s) : Inv s.resetBlock := by
  obtain ⟨-, -, -, -, -, hport⟩ := h
  obtain ⟨hconfig, hchannel, hstatus, hseq, -, -⟩ := resetMeetsInvariant
  exact ⟨hconfig, hchannel, hstatus, hseq, rfl, hport⟩

/-! ### The invariant under the operations that end a command -/

theorem Inv.hold {s : State} (h : Inv s) : Inv s.hold := by
  obtain ⟨hconfig, hchannel, hstatus, hseq, hci, hport⟩ := h
  refine ⟨hconfig, hchannel, hstatus, hseq, hci, fun c hc => hport c ?_⟩
  cases hp : s.port <;> simp_all [State.hold]

theorem Inv.retry {s : State} (h : Inv s) : Inv s.retry := by
  obtain ⟨hconfig, hchannel, hstatus, hseq, hci, hport⟩ := h
  refine ⟨hconfig, hchannel, hstatus, hseq, hci, fun c hc => hport c ?_⟩
  cases hp : s.port <;> simp_all [State.retry]

theorem Inv.respond {s : State} (h : Inv s) (code : Nat) (data : Option Item) : Inv (s.respond code data) := by
  obtain ⟨hconfig, hchannel, hstatus, hseq, hci, -⟩ := h
  exact ⟨hconfig, hchannel, hstatus, hseq, hci, by simp⟩

/-- The error bit of a cause lies in bits 1 to 7, at the place its code names (R36). -/
theorem errorBit_mask (e : ErrorCode) (w : Word) (hw : w &&& 0xFE = w) :
    (w ||| 1#32 <<< errorCode e) &&& 0xFE = w ||| 1#32 <<< errorCode e := by
  have hbit : 1#32 <<< errorCode e &&& 0xFE = 1#32 <<< errorCode e := by cases e <;> decide
  rw [BitVec.and_or_distrib_right, hw, hbit]

theorem StatusInv.raise {s : State} (h : StatusInv s) (e : ErrorCode) (w : Word) : StatusInv (s.raise e w) := by
  obtain ⟨hmask, -, -, -, hcounts⟩ := h
  have hcode : (BitVec.ofNat 32 (errorCode e)).toNat = errorCode e := by cases e <;> rfl
  have hbit : (s.err ||| 1#32 <<< errorCode e).getLsbD (errorCode e) = true := by
    have := errorCode_le e
    simp
    omega
  have hlast : BitVec.ofNat 32 (errorCode e) ≠ 0 := by cases e <;> decide
  have herr : s.err ||| 1#32 <<< errorCode e ≠ 0 := fun h0 => by simp [h0] at hbit
  refine ⟨errorBit_mask e _ hmask, ?_, iff_of_false hlast herr, fun _ => ?_, hcounts⟩
  · simpa only [State.raise_lastErr, hcode] using errorCode_le e
  · simpa only [State.raise_lastErr, State.raise_err, hcode] using hbit

theorem Inv.raise {s : State} (h : Inv s) (e : ErrorCode) (w : Word) : Inv (s.raise e w) := by
  obtain ⟨hconfig, hchannel, hstatus, hseq, hci, -⟩ := h
  exact ⟨hconfig, hchannel, hstatus.raise e w, hseq, hci, by simp⟩

/-! ### The invariant under each command's effect -/

/-- The check of COMMIT (R131) is the legality of R26. -/
theorem commit_check_iff {nfft nc : Word} :
    ¬ (nfft = 0 ∨ nc = 0 ∨ nfft.toNat < nc.toNat) ↔ 1 ≤ nc.toNat ∧ nc.toNat ≤ nfft.toNat := by
  simp only [← BitVec.toNat_inj, BitVec.ofNat_eq_ofNat, BitVec.toNat_ofNat, Nat.zero_mod]
  omega

section effects
variable {i : Instr} {s u : State}

/-- Only COMMIT writes the active configuration, and it has checked 1 ≤ Nc ≤ N (R26, R28, R130). -/
theorem Effect.configInv (h : Effect i s u) (hr : i ≠ .reset) (hs : ConfigInv s) : ConfigInv u := by
  by_cases hc : i = .commit
  · subst hc
    obtain ⟨nfft, nc, cplen, m, hlegal, -, -, -, rfl⟩ := h
    rintro a ⟨rfl⟩
    obtain ⟨hpos, hle⟩ := commit_check_iff.mp hlegal
    exact ⟨hpos, hle, rfl⟩
  · intro a ha
    exact hs a ((h.leavesOthers hr).active hc ▸ ha)

/-- A write to `FS` gives it a value, and one to `SNR_LIN` that is not refused a positive one (R128 (f)). -/
theorem writeReg_rates {r : Reg} {v : Item} {t : State} (h : s.writeReg r v = some t) (hr : refusedWrite r v = false) :
    (t.fs = s.fs ∨ t.fs.isSome = true) ∧
    (t.snrLin = s.snrLin ∨ ∃ x, t.snrLin = some x ∧ Config.num.lt Config.num.zero x = true) := by
  cases r <;> cases v <;>
    simp only [State.writeReg, Option.some.injEq, Option.map_eq_some_iff, reduceCtorEq] at h
  case snrLin.scalar x => subst h; exact ⟨.inl rfl, .inr ⟨x, rfl, by simpa [refusedWrite] using hr⟩⟩
  case fs.scalar => subst h; exact ⟨.inr rfl, .inl rfl⟩
  case sScfdm.nat32 => obtain ⟨b, -, rfl⟩ := h; exact ⟨.inl rfl, .inl rfl⟩
  case sCptype.nat32 => obtain ⟨c, -, rfl⟩ := h; exact ⟨.inl rfl, .inl rfl⟩
  all_goals subst h; exact ⟨.inl rfl, .inl rfl⟩

/-- `FS`, once written, stays written. -/
theorem Effect.fs_isSome (h : Effect i s u) (hr : i ≠ .reset) (hfs : s.fs.isSome = true) : u.fs.isSome = true := by
  by_cases hw : ∃ r v, i = .wrreg r v
  · obtain ⟨r, v, rfl⟩ := hw
    obtain ⟨q, -, hq, hq'⟩ := h
    obtain ⟨heq | hsome, -⟩ := writeReg_rates hq hq'
    · rwa [heq]
    · exact hsome
  · obtain ⟨-, -, heq⟩ := (h.leavesOthers hr).staged (by simpa using hw)
    rwa [heq]

/-- Only WRREG writes `SNR_LIN`, and a value not above 0 is refused (R128 (f)). -/
theorem Effect.snrLin_pos (h : Effect i s u) (hr : i ≠ .reset)
    (hs : ∀ v, s.snrLin = some v → Config.num.lt Config.num.zero v = true) :
    ∀ v, u.snrLin = some v → Config.num.lt Config.num.zero v = true := by
  by_cases hw : ∃ r v, i = .wrreg r v
  · obtain ⟨r, v, rfl⟩ := hw
    obtain ⟨q, -, hq, hq'⟩ := h
    obtain ⟨-, heq | ⟨x, hx, hpos⟩⟩ := writeReg_rates hq hq'
    · rwa [heq]
    · simpa [hx] using hpos
  · obtain ⟨-, heq, -⟩ := (h.leavesOthers hr).staged (by simpa using hw)
    rwa [heq]

theorem NoiseWritten.powersTogether {n : Nat} {y w : List Sample} {p q : Option Scalar} (h : NoiseWritten s n y w p q)
    (hs : s.psig.isSome = s.pnoise.isSome) : p.isSome = q.isSome := by
  obtain ⟨-, -, ⟨rfl, rfl⟩ | ⟨hp, hq⟩⟩ := h
  · exact hs
  · rw [hp, hq]

/-- The noise step writes both powers or neither (R38). -/
theorem Effect.powersTogether (h : Effect i s u) (hr : i ≠ .reset) (hs : s.psig.isSome = s.pnoise.isSome) :
    u.psig.isSome = u.pnoise.isSome := by
  have hother := (h.leavesOthers hr).powers
  cases i
  case noise => obtain ⟨-, y, w, p, q, d, hw, rfl⟩ := h; exact hw.powersTogether hs
  case chtx => obtain ⟨-, y, w, p, q, d, hw, rfl⟩ := h; exact hw.powersTogether hs
  all_goals
    obtain ⟨hp, hq⟩ := hother nofun nofun
    rw [hp, hq, hs]

theorem Channel.withProfile_eq_rayleigh {p : Profile} {c : Channel} {f : Filter} (h : c.withProfile p = .rayleigh f) :
    ∃ g, c = .rayleigh g ∧ f = { g with profile := some p } := by
  cases c with
  | none => cases h
  | awgn => cases h
  | rayleigh g => cases h; exact ⟨g, rfl, rfl⟩

/-- The filter is built with `CH_FS` and the active profile (CHSEL, R33, R35), and PROFLD replaces its copy (R204). -/
theorem Effect.filterAgrees (h : Effect i s u) (hr : i ≠ .reset)
    (hs : ∀ f, s.ch = .rayleigh f → s.chFs = some f.fs ∧ f.profile = s.profile ∧ s.fs.isSome = true) :
    ∀ f, u.ch = .rayleigh f → u.chFs = some f.fs ∧ f.profile = u.profile ∧ u.fs.isSome = true := by
  have hother := h.leavesOthers hr
  have hfs := h.fs_isSome hr
  intro f hf
  cases i
  case chsel =>
    obtain ⟨-, rfl⟩ | ⟨-, x, hx, rfl⟩ := h
    · cases hf
    · cases hf
      exact ⟨rfl, rfl, by simp [hx]⟩
  case profld =>
    obtain ⟨-, rfl⟩ := h
    obtain ⟨g, hg, rfl⟩ := Channel.withProfile_eq_rayleigh hf
    obtain ⟨hchFs, -, hset⟩ := hs g hg
    exact ⟨hchFs, rfl, hset⟩
  all_goals
    rw [hother.ch nofun nofun] at hf
    rw [hother.chFs nofun, hother.profile nofun]
    obtain ⟨hchFs, hprofile, hset⟩ := hs f hf
    exact ⟨hchFs, hprofile, hfs hset⟩

/-- Only PROFLD writes the profile, and it has checked the tap count (R32, R97). -/
theorem Effect.tapCount (h : Effect i s u) (hr : i ≠ .reset)
    (hs : ∀ p, s.profile = some p → 1 ≤ p.taps.length ∧ p.taps.length ≤ 255) :
    ∀ p, u.profile = some p → 1 ≤ p.taps.length ∧ p.taps.length ≤ 255 := by
  by_cases hp : ∃ taps fd, i = .profld taps fd
  · obtain ⟨taps, fd, rfl⟩ := hp
    obtain ⟨hlen, rfl⟩ := h
    rintro p ⟨rfl⟩
    exact hlen
  · rwa [(h.leavesOthers hr).profile (by simpa using hp)]

theorem Effect.channelInv (h : Effect i s u) (hr : i ≠ .reset) (hs : ChannelInv s) : ChannelInv u := by
  obtain ⟨hfilter, htaps, hsnr, hpowers⟩ := hs
  exact ⟨h.filterAgrees hr hfilter, h.tapCount hr htaps, h.snrLin_pos hr hsnr, h.powersTogether hr hpowers⟩

/-- Only SER writes its counts: k ≤ a of a, where a has 12 bits (R37, R236). -/
theorem Effect.serCounts_le (h : Effect i s u) (hr : i ≠ .reset)
    (hs : s.serErrs.toNat ≤ s.serTotal.toNat ∧ s.serTotal.toNat ≤ 4095) :
    u.serErrs.toNat ≤ u.serTotal.toNat ∧ u.serTotal.toNat ≤ 4095 := by
  by_cases hser : ∃ a b, i = .ser a b
  · obtain ⟨a, b, rfl⟩ := hser
    obtain ⟨-, -, k, hk, rfl⟩ := h
    have ha := a.isLt
    simp only [BitVec.toNat_ofNat]
    omega
  · obtain ⟨herrs, htotal⟩ := (h.leavesOthers hr).serCounts (by simpa using hser)
    rwa [herrs, htotal]

theorem Effect.statusInv (h : Effect i s u) (hr : i ≠ .reset) (hs : StatusInv s) : StatusInv u := by
  obtain ⟨hmask, hcode, hzero, hbit, hcounts⟩ := hs
  have hcounts' := h.serCounts_le hr hcounts
  by_cases hc : i = .clrerr
  · subst hc
    obtain rfl : u = _ := h
    exact ⟨by simp, by simp, by simp, by simp, hcounts'⟩
  · obtain ⟨herr, hlast, -⟩ := (h.leavesOthers hr).errorRecord hc
    unfold StatusInv
    rw [herr, hlast]
    exact ⟨hmask, hcode, hzero, hbit, hcounts'⟩

/-- The transceiver commands end at `BITS` (R30, R163, R182); the others do not move the phase. -/
theorem Effect.sequencingInv (h : Effect i s u) (hr : i ≠ .reset) (hs : SequencingInv s) : SequencingInv u := by
  have hother := (h.leavesOthers hr).sequencing
  cases i
  case modsym => obtain ⟨a, -, -, -, rfl⟩ := h; exact ⟨rfl, rfl⟩
  case modstr => obtain ⟨a, -, -, -, rfl⟩ := h; exact ⟨rfl, rfl⟩
  case demsym => obtain ⟨a, -, -, -, -, rfl⟩ := h; exact ⟨rfl, rfl⟩
  case demstr => obtain ⟨a, -, -, -, rfl⟩ := h; exact ⟨rfl, rfl⟩
  all_goals
    obtain ⟨-, hphase, hidx⟩ := hother rfl
    unfold SequencingInv
    rwa [hphase, hidx]

/-- No command adds to `CI`. -/
theorem Effect.finiteInv (h : Effect i s u) (hr : i ≠ .reset) (hs : FiniteInv s) : FiniteInv u := by
  obtain ⟨hci, hport⟩ := hs
  refine ⟨?_, by rwa [h.responses.2]⟩
  rw [List.all_eq_true] at hci ⊢
  exact fun z hz => hci z ((h.leavesOthers hr).ci.subset hz)

theorem Effect.inv (h : Effect i s u) (hs : Inv s) : Inv u := by
  by_cases hr : i = .reset
  · subst hr
    obtain rfl : u = _ := h
    exact hs.resetBlock
  · obtain ⟨hconfig, hchannel, hstatus, hseq, hfinite⟩ := hs
    exact ⟨h.configInv hr hconfig, h.channelInv hr hchannel, h.statusInv hr hstatus, h.sequencingInv hr hseq,
      h.finiteInv hr hfinite⟩

end effects

/-! ### The invariant under a step -/

theorem exec_keeps_inv {i : Instr} {s t : State} (hs : Inv s) (h : exec i s = .next t) : Inv t := by
  obtain ⟨rfl, -⟩ | ⟨e, rfl⟩ | ⟨r, v, -, rfl⟩ | ⟨u, hu, rfl⟩ := exec_next h
  · exact hs.hold
  · exact hs.raise ..
  · exact hs.respond ..
  · exact (hu.inv hs).respond ..

/-- What enters `CI` or the port has been checked to be finite (R306; log 27); nothing else of the invariant is the host's to touch. -/
theorem hostAct_keeps_inv {a : HostAction} {s t : State} (hs : Inv s) (h : hostAct a s = .next t) : Inv t := by
  obtain ⟨bi, ci, bo, co, no, rfl, hfin⟩ | ⟨c, -, -, hfin, rfl⟩ | ⟨-, rfl⟩ := hostAct_next h
  · obtain ⟨hconfig, hchannel, hstatus, hseq, hci, hport⟩ := hs
    refine Inv.retry ⟨hconfig, hchannel, hstatus, hseq, ?_, hport⟩
    simp [List.all_append, hci, hfin]
  · obtain ⟨hconfig, hchannel, hstatus, hseq, hci, -⟩ := hs
    refine ⟨hconfig, hchannel, hstatus, hseq, hci, fun d hd => ?_⟩
    obtain ⟨⟨⟩⟩ | hd := hd
    · exact hfin
    · cases hd
  · exact hs.resetBlock.retry

theorem hostTurn_keeps_inv {s t : State} (hs : Inv s) (h : hostTurn s = .next t) : Inv t := by
  unfold hostTurn at h
  split at h
  · split at h
    · cases h
    · cases h
      exact hs
  next action rest _ => exact hostAct_keeps_inv (s := { s with script := rest }) hs h

/-- Settles O58: a step executes or rejects the issued command, or is the host's turn, and each keeps every clause. -/
theorem stepKeepsInvariant : Obligations.StepKeepsInvariant := by
  intro s t hs h
  unfold step at h
  split at h
  · split at h
    · exact exec_keeps_inv hs h
    · rw [fail_next.mp h]
      exact hs.raise ..
  · exact hostTurn_keeps_inv hs h
  · exact hostTurn_keeps_inv hs h

end Sys2Proof.Machine
end

section
/-! RESET and COMMIT, register by register (R42, R123, R130, R132). -/

namespace Sys2Proof.Machine

/-- Settles O8: neither the port, the host's plan, the responses nor the draw count, which RESET keeps, is among the values read. -/
theorem resetLeavesResetValues : Obligations.ResetLeavesResetValues := by
  intro s
  refine ⟨s.resetBlock.respond 0 none, rfl, fun u hu => ?_⟩
  obtain ⟨port, script, responses, draws, rfl⟩ : ∃ port script responses draws,
      u = { State.reset with port := port, script := script, responses := responses, draws := draws } := by
    obtain rfl | rfl : u = _ ∨ u = _ := by simpa using hu
    · exact ⟨_, _, _, _, rfl⟩
    · exact ⟨_, _, _, _, rfl⟩
  refine ⟨?unwritten, ?zero, rfl, rfl, rfl, rfl, rfl, rfl, rfl, rfl, rfl, rfl, rfl, rfl, rfl⟩
  case unwritten => simp [State.readReg, State.reset, Staged.reset]
  case zero =>
    simp [State.readReg, State.reset, Staged.reset, boolWord, channelType, State.tapCount, phaseWord, State.statusWord,
      State.cfgValid, State.chValid, State.fsValid, State.profValid, State.snrValid]

/-- COMMIT of a legal staged configuration (R130). -/
theorem execCommit_of_legal {s : State} {nfft nc cplen : Word} {m : Modulation} (hnfft : s.staged.nfft = some nfft)
    (hnc : s.staged.nc = some nc) (hcplen : s.staged.cplen = some cplen) (hmod : s.staged.mod = some m.ident)
    (hpos : 1 ≤ nc.toNat) (hle : nc.toNat ≤ nfft.toNat) :
    exec .commit s = complete { s with
      active := some (newActive Config.num Config.enum s.staged nfft nc cplen m), buf := Buffers.unwritten } := by
  simp only [exec, execCommit, hnfft, hnc, hcplen, hmod, Modulation.ofIdent_ident, if_neg (commit_check_iff.mpr ⟨hpos, hle⟩)]

/-- An active configuration sets `CFG_VALID`, bit 0 of `STATUS`, and no other flag (R31). -/
theorem statusWord_of_active (s : State) (a : Active Scalar) :
    State.statusWord { s with active := some a } = s.statusWord ||| 1 := by
  simp only [State.statusWord, State.cfgValid, State.chValid, State.fsValid, State.profValid, State.snrValid, Option.isSome_some]
  generalize s.active.isSome = cfg, (channelType s.ch != 0) = ch, s.fs.isSome = fs, s.profile.isSome = prof,
    s.snrLin.isSome = snr
  revert cfg ch fs prof snr
  decide

theorem bps_eq_ident (m : Modulation) : m.bps = 2 * (m.ident.toNat + 1) := by cases m <;> rfl

/-- Settles O12: every active register is the staged one, and `A_BPS` and `ROM` belong to the modulation. -/
theorem commitReplacesConfiguration : Obligations.CommitReplacesConfiguration := by
  intro s nfft nc cplen m hnfft hnc hcplen hmod hpos hle
  refine ⟨_, execCommit_of_legal hnfft hnc hcplen hmod hpos hle, rfl, rfl, rfl, rfl, rfl, rfl, rfl, rfl,
    ?mod, ?bps, ?rom, ?flag, rfl⟩
  case mod => simp [State.readReg, newActive, hmod]
  case bps => simp [State.readReg, newActive, bps_eq_ident]
  case rom => rintro a ⟨rfl⟩; rfl
  case flag => exact statusWord_of_active s _

end Sys2Proof.Machine
end

section
/-! Which commands a change of the set-up registers commutes with (R25, R33, R132, R200). -/

namespace Sys2Proof.Machine

/-- The registers that set a command up: the staged and active configuration and the channel unit's. -/
structure Setup where
  staged : Staged
  active : Option (Active Scalar)
  snrLin : Option Scalar
  fs : Option Scalar
  ch : Channel
  profile : Option Profile
  chFs : Option Scalar

/-- The set-up registers of a state. -/
def State.setup (s : State) : Setup := ⟨s.staged, s.active, s.snrLin, s.fs, s.ch, s.profile, s.chFs⟩

/-- The state with its set-up registers changed, and nothing else. -/
def State.mapSetup (φ : Setup → Setup) (s : State) : State :=
  { s with
    staged := (φ s.setup).staged, active := (φ s.setup).active, snrLin := (φ s.setup).snrLin, fs := (φ s.setup).fs
    ch := (φ s.setup).ch, profile := (φ s.setup).profile, chFs := (φ s.setup).chFs }

section commute
variable {φ : Setup → Setup}

/-! ### The shared operations -/

theorem complete_mapSetup (s : State) : complete (s.mapSetup φ) = mapNext (State.mapSetup φ) (complete s) := rfl

theorem fail_mapSetup (e : ErrorCode) (w : Word) (s : State) :
    fail e w (s.mapSetup φ) = mapNext (State.mapSetup φ) (fail e w s) := rfl

theorem popBits_mapSetup {n : Nat} {s : State} {k k' : List Bit → State → Out}
    (hk : ∀ b t, k' b (t.mapSetup φ) = mapNext (State.mapSetup φ) (k b t)) :
    popBits n (s.mapSetup φ) k' = mapNext (State.mapSetup φ) (popBits n s k) := by
  rcases Nat.lt_or_ge s.bi.length n with h | h
  · rw [popBits_of_lt h, popBits_of_lt (s := s.mapSetup φ) h]; rfl
  · rw [popBits_of_le h, popBits_of_le (s := s.mapSetup φ) h]; exact hk (s.bi.take n) { s with bi := s.bi.drop n }

theorem popSamples_mapSetup {n : Nat} {s : State} {k k' : List Sample → State → Out}
    (hk : ∀ x t, k' x (t.mapSetup φ) = mapNext (State.mapSetup φ) (k x t)) :
    popSamples n (s.mapSetup φ) k' = mapNext (State.mapSetup φ) (popSamples n s k) := by
  rcases Nat.lt_or_ge s.ci.length n with h | h
  · rw [popSamples_of_lt h, popSamples_of_lt (s := s.mapSetup φ) h]; rfl
  · rw [popSamples_of_le h, popSamples_of_le (s := s.mapSetup φ) h]; exact hk (s.ci.take n) { s with ci := s.ci.drop n }

/-- The active configuration with other informational registers (R25). -/
def Active.withInfo (bw scs ts : Option Scalar) (cp : Option CpType) (a : Active Scalar) : Active Scalar :=
  { a with bw := bw, scs := scs, ts := ts, cptype := cp }

/-- The change leaves the active configuration as it is, but for informational registers. -/
def KeepsLink (φ : Setup → Setup) : Prop :=
  ∀ g, (g.active = none → (φ g).active = none) ∧
    ∀ a, g.active = some a → ∃ bw scs ts cp, (φ g).active = some (a.withInfo bw scs ts cp)

theorem needConfig_mapSetup (hφ : KeepsLink φ) {w : Word} {s : State} {k k' : Active Scalar → Out}
    (hk : ∀ a bw scs ts cp, k' (a.withInfo bw scs ts cp) = mapNext (State.mapSetup φ) (k a)) :
    needConfig w (s.mapSetup φ) k' = mapNext (State.mapSetup φ) (needConfig w s k) := by
  obtain ⟨hnone, hsome⟩ := hφ s.setup
  cases ha : s.active with
  | none => rw [needConfig_none ha, needConfig_none (s := s.mapSetup φ) (hnone ha), fail_mapSetup]
  | some a =>
    obtain ⟨bw, scs, ts, cp, ha'⟩ := hsome a ha
    rw [needConfig_some ha, needConfig_some (s := s.mapSetup φ) ha', hk]

theorem needPrefix_mapSetup {a : Active Scalar} {bw scs ts : Option Scalar} {cp : Option CpType} {k k' : Out}
    (hk : k' = mapNext (State.mapSetup φ) k) :
    needPrefix (a.withInfo bw scs ts cp) k' = mapNext (State.mapSetup φ) (needPrefix a k) := by
  rcases Nat.lt_or_ge a.cplen.toNat a.nfft.toNat with h | h
  · rw [needPrefix_of_lt h, needPrefix_of_lt (a := a.withInfo bw scs ts cp) h, hk]
  · rw [needPrefix_of_le h, needPrefix_of_le (a := a.withInfo bw scs ts cp) h]; rfl

/-! ### The commands -/

/-- The codec, the transceiver and the detector look at the active configuration only, and not at its informational registers. -/
theorem exec_mapSetup_of_linkCommand (hφ : KeepsLink φ) {i : Instr} (hi : linkCommand i = true) (hc : i ≠ .commit)
    (s : State) : exec i (s.mapSetup φ) = mapNext (State.mapSetup φ) (exec i s) := by
  cases i <;> simp only [linkCommand, Bool.false_eq_true] at hi
  case commit => exact absurd rfl hc
  case enc =>
    exact needConfig_mapSetup hφ fun a _ _ _ _ => popBits_mapSetup fun b t =>
      complete_mapSetup (t.pushSamples (encodeBits a.rom b))
  case dec =>
    exact needConfig_mapSetup hφ fun a _ _ _ _ => popSamples_mapSetup fun r t =>
      complete_mapSetup (t.pushBits (decodeSymbols Config.num a.rom r))
  case det =>
    exact needConfig_mapSetup hφ fun a _ _ _ _ => popSamples_mapSetup fun r t =>
      complete_mapSetup (t.pushSamples (detectSymbols Config.num a.rom r))
  case modsym =>
    exact needConfig_mapSetup hφ fun a _ _ _ _ => needPrefix_mapSetup <| popBits_mapSetup fun b t =>
      complete_mapSetup (t.emitSymbols [ofdmMod Config.num a b])
  case modstr =>
    exact needConfig_mapSetup hφ fun a _ _ _ _ => needPrefix_mapSetup <| popBits_mapSetup fun b t =>
      complete_mapSetup (t.emitSymbols (modSymbols Config.num a b))
  case demstr =>
    exact needConfig_mapSetup hφ fun a _ _ _ _ => needPrefix_mapSetup <| popSamples_mapSetup fun x t =>
      complete_mapSetup (t.emitChunks (demChunks Config.num a x))
  case demsym n =>
    refine needConfig_mapSetup hφ fun a _ _ _ _ => ?_
    by_cases h : a.spo < n.toNat
    · rw [if_pos h]
      exact if_pos h
    · rw [if_neg h]
      exact (if_neg h).trans <| needPrefix_mapSetup <| popSamples_mapSetup fun c t =>
        complete_mapSetup (t.emitChunks [ofdmDemod Config.num a c])
  case ser a b =>
    simp only [exec, execSer]
    split
    · rfl
    · exact popSamples_mapSetup fun _ _ => rfl

theorem fadeDraw_mapSetup (p : Profile) (fs : Scalar) (x : List Sample) (s : State) :
    fadeDraw p fs x (s.mapSetup φ) = ((fadeDraw p fs x s).1, (fadeDraw p fs x s).2.mapSetup φ) := by
  unfold fadeDraw
  split <;> rfl

theorem noiseStep_mapSetup (snr : Scalar) (x : List Sample) (s : State) :
    noiseStep snr x (s.mapSetup φ) = (noiseStep snr x s).mapSetup φ := by
  unfold noiseStep
  split <;> rfl

end commute

/-- Other link configurations, active and staged; the channel unit's registers stay. -/
def Setup.mapLink (α : Option (Active Scalar) → Option (Active Scalar)) (σ : Staged → Staged) (g : Setup) : Setup :=
  { g with active := α g.active, staged := σ g.staged }

section link
variable {α : Option (Active Scalar) → Option (Active Scalar)} {σ : Staged → Staged}

@[simp] theorem State.mapLink_ch (s : State) : (s.mapSetup (Setup.mapLink α σ)).ch = s.ch := rfl
@[simp] theorem State.mapLink_fs (s : State) : (s.mapSetup (Setup.mapLink α σ)).fs = s.fs := rfl
@[simp] theorem State.mapLink_snrLin (s : State) : (s.mapSetup (Setup.mapLink α σ)).snrLin = s.snrLin := rfl
@[simp] theorem fadingSetup_mapLink (s : State) : fadingSetup (s.mapSetup (Setup.mapLink α σ)) = fadingSetup s := rfl

/-- The channel unit looks at no register of the link configuration and writes none. -/
theorem exec_mapLink_of_channelCommand {i : Instr} (hi : channelCommand i = true) (s : State) :
    exec i (s.mapSetup (Setup.mapLink α σ)) = mapNext (State.mapSetup (Setup.mapLink α σ)) (exec i s) := by
  cases i <;> simp only [channelCommand, Bool.false_eq_true] at hi
  case chsel t =>
    simp only [exec, execChsel, State.mapLink_fs]
    repeat' split
    all_goals rfl
  case profld taps fd =>
    simp only [exec, execProfld]
    split <;> rfl
  case fade n =>
    simp only [exec, execFade, fadingSetup_mapLink]
    split
    · rfl
    · exact popSamples_mapSetup fun x t => by rw [fadeDraw_mapSetup]; rfl
  case noise n =>
    simp only [exec, execNoise, State.mapLink_ch, State.mapLink_snrLin]
    split
    · exact popSamples_mapSetup fun x t => by rw [noiseStep_mapSetup, complete_mapSetup]
    · exact popSamples_mapSetup fun x t => by rw [noiseStep_mapSetup, complete_mapSetup]
    · rfl
  case chtx n =>
    simp only [exec, execChtx, State.mapLink_ch, State.mapLink_snrLin, fadingSetup_mapLink]
    repeat' split
    · exact popSamples_mapSetup fun x t => by rw [noiseStep_mapSetup, complete_mapSetup]
    · rfl
    · exact popSamples_mapSetup fun x t => by rw [fadeDraw_mapSetup, noiseStep_mapSetup, complete_mapSetup]
    · rfl

/-- WRREG does not look at the active configuration. -/
theorem writeReg_mapLink (r : Reg) (v : Item) (s : State) :
    (s.mapSetup (Setup.mapLink α id)).writeReg r v = (s.writeReg r v).map (State.mapSetup (Setup.mapLink α id)) := by
  cases r <;> cases v
  case sScfdm.nat32 x => simp only [State.writeReg, Option.map_map]; rfl
  case sCptype.nat32 x => simp only [State.writeReg, Option.map_map]; rfl
  all_goals rfl

theorem exec_wrreg_mapLink (reg : BitVec 8) (v : Item) (s : State) :
    exec (.wrreg reg v) (s.mapSetup (Setup.mapLink α id)) =
      mapNext (State.mapSetup (Setup.mapLink α id)) (exec (.wrreg reg v) s) := by
  simp only [exec, execWrreg]
  split
  · rfl
  · rw [writeReg_mapLink]
    cases s.writeReg _ v with
    | none => rfl
    | some t => simp only [Option.map_some]; split <;> rfl

end link

/-! ### The channel unit and the link configuration -/

/-- The channel unit's registers replaced; the link configuration stays. -/
def Setup.withChannel (c : Channel) (p : Option Profile) (f h v : Option Scalar) (g : Setup) : Setup :=
  { g with ch := c, profile := p, fs := f, chFs := h, snrLin := v }

theorem KeepsLink.of_active_eq {φ : Setup → Setup} (h : ∀ g, (φ g).active = g.active) : KeepsLink φ :=
  fun g => ⟨fun hg => (h g).trans hg, fun a hg => ⟨a.bw, a.scs, a.ts, a.cptype, (h g).trans hg⟩⟩

/-- Settles O44: the channel commands commute with any change of the link configuration, and the link commands with any change that
keeps the active one; COMMIT, which the second law leaves out, looks at the staged one only. -/
theorem channelAndLinkIndependent : Obligations.ChannelAndLinkIndependent := by
  intro i s
  refine ⟨fun hi act g => exec_mapLink_of_channelCommand (α := fun _ => act) (σ := fun _ => g) hi s, fun hi c p f h v => ?_⟩
  by_cases hc : i = .commit
  · subst hc
    simp only [exec, execCommit]
    repeat' split
    all_goals rfl
  · exact exec_mapSetup_of_linkCommand (φ := Setup.withChannel c p f h v) (.of_active_eq fun _ => rfl) hi hc s

/-! ### The informational registers -/

/-- The staged configuration with other informational registers (R25). -/
def Staged.withInfo (bw scs ts : Option Scalar) (cp : Option CpType) (g : Staged) : Staged :=
  { g with bw := bw, scs := scs, ts := ts, cptype := cp }

theorem keepsLink_mapLink_withInfo (bw scs ts : Option Scalar) (cp : Option CpType) :
    KeepsLink (Setup.mapLink (Option.map (Active.withInfo bw scs ts cp)) id) :=
  fun g => ⟨fun h => by simp [Setup.mapLink, h], fun a h => ⟨bw, scs, ts, cp, by simp [Setup.mapLink, h]⟩⟩

/-- Every command but the four that clear, read, write or copy link registers commutes with a change of them that keeps what the
datapath looks at. -/
theorem exec_mapLink_of_keepsLink {α : Option (Active Scalar) → Option (Active Scalar)} {σ : Staged → Staged}
    (hα : KeepsLink (Setup.mapLink α σ)) {i : Instr} (hrd : ∀ r, i ≠ .rdreg r) (hc : i ≠ .commit) (hr : i ≠ .reset)
    (hw : ∀ r v, i ≠ .wrreg r v) (s : State) :
    exec i (s.mapSetup (Setup.mapLink α σ)) = mapNext (State.mapSetup (Setup.mapLink α σ)) (exec i s) := by
  by_cases hlink : linkCommand i = true
  · exact exec_mapSetup_of_linkCommand hα hlink hc s
  by_cases hchannel : channelCommand i = true
  · exact exec_mapLink_of_channelCommand hchannel s
  cases i
  case nop => rfl
  case clrerr => rfl
  case reset => exact absurd rfl hr
  case rdreg r => exact absurd rfl (hrd r)
  case wrreg r v => exact absurd rfl (hw r v)
  all_goals simp [linkCommand, channelCommand] at hlink hchannel

/-- Settles O56: the active copies under WRREG and under RESET, and both copies under every other command. -/
theorem informationalRegistersUnused : Obligations.InformationalRegistersUnused := by
  intro i s bw scs ts bw' scs' ts' cp cp' hrd hc active staged
  refine ⟨?_, fun hr hw => ?_, ?_⟩
  · by_cases hr : i = .reset
    · subst hr
      rfl
    by_cases hw : ∃ r v, i = .wrreg r v
    · obtain ⟨r, v, rfl⟩ := hw
      exact exec_wrreg_mapLink (α := Option.map (Active.withInfo bw scs ts cp)) r v s
    · exact exec_mapLink_of_keepsLink (keepsLink_mapLink_withInfo bw scs ts cp) hrd hc hr (by simpa using hw) s
  · exact exec_mapLink_of_keepsLink (α := id) (σ := Staged.withInfo bw' scs' ts' cp') (.of_active_eq fun _ => rfl) hrd hc hr hw s
  · rintro rfl
    rfl

end Sys2Proof.Machine
end

section
/-! Which queue each command uses, and how much of it (R64, R65, R75). -/

namespace Sys2Proof.Machine

/-! ### How much a stream makes -/

theorem length_flatMap_of_forall_mem {α β : Type*} {l : List α} {f : α → List β} {k : Nat}
    (h : ∀ x ∈ l, (f x).length = k) : (l.flatMap f).length = l.length * k := by
  simp [List.length_flatMap, List.map_congr_left h]

section stream
variable {K : Type} (num : NumSys K) (a : Active K)

/-- MODSTR makes K·SPO samples (R65, R170). -/
theorem length_flatMap_modSymbols (b : List Bit) (hc : a.nc.toNat ≤ a.nfft.toNat) (hp : a.cplen.toNat ≤ a.nfft.toNat) :
    ((modSymbols num a b).flatMap fun o => o.obuf).length = ceilDiv b.length a.bpo * a.spo := by
  rw [← modSymbols_length num]
  refine length_flatMap_of_forall_mem fun o ho => ?_
  obtain ⟨i, -, rfl⟩ := List.mem_map.mp ho
  exact (ofdmMod_lengths num a _ hc hp).2.2.2

/-- DEMSTR makes K·Nc symbols (R65, R186). -/
theorem length_flatMap_demChunks (x : List (Cplx K)) (hc : a.nc.toNat ≤ a.nfft.toNat) :
    ((demChunks num a x).flatMap fun o => o.dbuf).length = ceilDiv x.length a.spo * a.nc.toNat := by
  rw [← demChunks_length num]
  refine length_flatMap_of_forall_mem fun o ho => ?_
  obtain ⟨i, -, rfl⟩ := List.mem_map.mp ho
  exact (ofdmDemod_lengths num a _ hc (List.length_take_le ..)).2.2.2

end stream

/-! ### What each effect does to the queues -/

/-- The input queues after a command whose input was there: its counts are gone from the front (R65, column "pops"). -/
def PopsInput (i : Instr) (s u : State) : Prop :=
  (popsBi s i ≤ s.bi.length ∧ u.bi = s.bi.drop (popsBi s i)) ∧ (popsCi i ≤ s.ci.length ∧ u.ci = s.ci.drop (popsCi i))

/-- The output queues after a command: its counts have come to the back (R65, column "pushes"). -/
def PushesOutput (i : Instr) (s u : State) : Prop :=
  (∃ x, u.bo = s.bo ++ x ∧ x.length = pushesBo s i) ∧ (∃ x, u.co = s.co ++ x ∧ x.length = pushesCo s i) ∧
  (∃ x, u.no = s.no ++ x ∧ x.length = pushesNo i)

section effects
variable {i : Instr} {s u : State}

theorem Effect.popsInput (h : Effect i s u) (hr : i ≠ .reset) : PopsInput i s u := by
  unfold PopsInput
  cases i <;> simp only [Effect] at h <;> simp only [popsBi, popsCi]
  case reset => exact absurd rfl hr
  case wrreg => obtain ⟨r, -, hw, -⟩ := h; rw [writeReg_frame hw]; simp
  case chsel => obtain ⟨-, rfl⟩ | ⟨-, f, -, rfl⟩ := h <;> simp
  case modsym => obtain ⟨a, ha, -, hlen, rfl⟩ := h; simpa [activeSize, ha] using hlen
  case ser => obtain ⟨-, hlen, k, -, rfl⟩ := h; simpa using hlen
  all_goals
    repeat' (first | subst h | obtain ⟨_, h⟩ := h)
    simp [*]

/-- The legality of the active configuration (R26) and cp < N give the stages of the transceiver their lengths. -/
theorem Effect.pushesOutput (h : Effect i s u) (hr : i ≠ .reset) (hs : ConfigInv s) : PushesOutput i s u := by
  unfold PushesOutput
  cases i <;> simp only [Effect] at h <;> simp only [pushesBo, pushesCo, pushesNo]
  case reset => exact absurd rfl hr
  case wrreg => obtain ⟨r, -, hw, -⟩ := h; rw [writeReg_frame hw]; simp
  case chsel => obtain ⟨-, rfl⟩ | ⟨-, f, -, rfl⟩ := h <;> simp
  case enc => obtain ⟨a, ha, hlen, rfl⟩ := h; simp [activeSize, ha, encodeBits_length, hlen]
  case dec => obtain ⟨a, ha, hlen, rfl⟩ := h; simp [activeSize, ha, decodeSymbols_length, hlen]
  case det => obtain ⟨a, ha, hlen, rfl⟩ := h; simp [detectSymbols_length, hlen]
  case modsym =>
    obtain ⟨a, ha, hcp, -, rfl⟩ := h
    obtain ⟨-, hnc, -⟩ := hs a ha
    simp [activeSize, ha, ofdmMod_lengths Config.num a _ hnc hcp.le]
  case modstr n =>
    obtain ⟨a, ha, hcp, hlen, rfl⟩ := h
    obtain ⟨-, hnc, -⟩ := hs a ha
    simpa [activeSize, ha, hlen] using length_flatMap_modSymbols Config.num a (s.bi.take n.toNat) hnc hcp.le
  case demsym n =>
    obtain ⟨a, ha, -, hspo, hlen, rfl⟩ := h
    obtain ⟨-, hnc, -⟩ := hs a ha
    simpa [activeSize, ha] using (ofdmDemod_lengths Config.num a (s.ci.take n.toNat) hnc (by simp [hspo])).2.2.2
  case demstr n =>
    obtain ⟨a, ha, -, hlen, rfl⟩ := h
    obtain ⟨-, hnc, -⟩ := hs a ha
    simpa [activeSize, ha, hlen] using length_flatMap_demChunks Config.num a (s.ci.take n.toNat) hnc
  case noise => obtain ⟨-, y, w, p, q, d, ⟨hy, hw, -⟩, rfl⟩ := h; simp [hy, hw]
  case chtx => obtain ⟨-, y, w, p, q, d, ⟨hy, hw, -⟩, rfl⟩ := h; simp [hy, hw]
  all_goals
    repeat' (first | subst h | obtain ⟨_, h⟩ := h)
    simp [*]

end effects

/-- Settles O54: of the four cases of `exec_next` a hold does not answer and a raise answers no 0; RDREG uses no queue, and every
other command has had its effect. -/
theorem queueUseByCommand : Obligations.QueueUseByCommand := by
  intro i s t d hs hr h hresp
  suffices huse : PopsInput i s t ∧ PushesOutput i s t by
    obtain ⟨⟨⟨hb, hbi⟩, hc, hci⟩, hbo, hco, hno⟩ := huse
    exact ⟨hb, hbi, hc, hci, hbo, hco, hno⟩
  obtain ⟨rfl, -⟩ | ⟨e, rfl⟩ | ⟨r, v, rfl, rfl⟩ | ⟨u, hu, rfl⟩ := exec_next h
  · simp at hresp
  · simp [(errorCode_pos e).ne'] at hresp
  · simp [PopsInput, PushesOutput, popsBi, popsCi, pushesBo, pushesCo, pushesNo]
  · exact ⟨hu.popsInput hr, hu.pushesOutput hr hs⟩

end Sys2Proof.Machine
end

section
/-! A command and its input: the hold, the push that lifts it, and what the host may do between commands (R66, R78, R120, R297). -/

namespace Sys2Proof.Machine

/-! ### One step -/

theorem step_of_issued {s : State} {c : Command} {i : Instr} (hp : s.port = .issued c) (hd : decode c = .ok i) :
    step s = exec i s := by simp [step, hp, hd]

/-- Settles O5. -/
theorem stepRunsIssuedCommand : Obligations.StepRunsIssuedCommand := fun _ _ _ hp hd => step_of_issued hp hd

/-- With no command issued the host takes the first action of its plan. -/
theorem step_of_script {s : State} {h : HostAction} {rest : List HostAction} (hp : ∀ c, s.port ≠ .issued c)
    (hs : s.script = h :: rest) : step s = hostAct h { s with script := rest } := by
  cases hport : s.port with
  | issued c => exact absurd hport (hp c)
  | idle => simp [step, hport, hostTurn, hs]
  | held c => simp [step, hport, hostTurn, hs]

theorem State.hold_of_issued {s : State} {c : Command} (hp : s.port = .issued c) : s.hold = { s with port := .held c } := by
  simp [State.hold, hp]

theorem State.retry_of_idle {s : State} (hp : s.port = .idle) : s.retry = s := by
  cases s
  cases hp
  rfl

/-! ### The checks of a command do not look at its input -/

/-- A command's checks have passed: it is held, or it answers 0 and no value. -/
def Proceeds (s : State) (o : Out) : Prop := ∃ t, o = .next t ∧ (t = s.hold ∨ t.responses = s.responses ++ [⟨0, none⟩])

section proceeds
variable {s : State}

@[simp] theorem not_proceeds_fail (e : ErrorCode) (w : Word) : ¬ Proceeds s (fail e w s) := by
  rintro ⟨t, ht, h⟩
  rw [fail_next.mp ht] at h
  obtain h | h := h
  · simpa using congrArg State.responses h
  · simp [(errorCode_pos e).ne'] at h

@[simp] theorem not_proceeds_refused (q : Refusal) : ¬ Proceeds s (.refused q) := by
  rintro ⟨t, ⟨⟩, -⟩

theorem proceeds_complete {u : State} (h : u.responses = s.responses) : Proceeds s (complete u) :=
  ⟨_, rfl, .inr (by simp [h])⟩

/-- The check for a configuration passes in another state with the same one. -/
theorem Proceeds.needConfig {t : State} {w w' : Word} {k k' : Active Scalar → Out} (h : Proceeds s (needConfig w s k))
    (hactive : t.active = s.active) (hk : ∀ a, Proceeds s (k a) → Proceeds t (k' a)) : Proceeds t (needConfig w' t k') := by
  cases ha : s.active with
  | none =>
    rw [needConfig_none ha] at h
    exact absurd h (not_proceeds_fail _ _)
  | some a =>
    rw [needConfig_some ha] at h
    rw [needConfig_some (hactive.trans ha)]
    exact hk a h

/-- The host's duty cp < N is the same in another state. -/
theorem Proceeds.needPrefix {t : State} {a : Active Scalar} {k k' : Out} (h : Proceeds s (needPrefix a k))
    (hk : Proceeds t k') : Proceeds t (needPrefix a k') := by
  rcases Nat.lt_or_ge a.cplen.toNat a.nfft.toNat with hcp | hcp
  · rwa [needPrefix_of_lt hcp]
  · rw [needPrefix_of_le hcp] at h
    exact absurd h (not_proceeds_refused _)

theorem proceeds_popBits {n : Nat} {f : List Bit → State → State} (h : ∀ b u, (f b u).responses = u.responses) :
    Proceeds s (popBits n s fun b u => complete (f b u)) := by
  rcases Nat.lt_or_ge s.bi.length n with hn | hn
  · exact ⟨_, popBits_of_lt hn, .inl rfl⟩
  · rw [popBits_of_le hn]
    exact proceeds_complete (h _ _)

theorem proceeds_popSamples {n : Nat} {f : List Sample → State → State} (h : ∀ x u, (f x u).responses = u.responses) :
    Proceeds s (popSamples n s fun x u => complete (f x u)) := by
  rcases Nat.lt_or_ge s.ci.length n with hn | hn
  · exact ⟨_, popSamples_of_lt hn, .inl rfl⟩
  · rw [popSamples_of_le hn]
    exact proceeds_complete (h _ _)

end proceeds

@[simp] theorem fadeDraw_responses (p : Profile) (fs : Scalar) (x : List Sample) (s : State) :
    (fadeDraw p fs x s).2.responses = s.responses := by rw [fadeDraw_state]

@[simp] theorem noiseStep_responses (snr : Scalar) (x : List Sample) (s : State) :
    (noiseStep snr x s).responses = s.responses := by
  obtain ⟨y, w, p, q, d, -, h⟩ := noiseStep_written snr x s
  rw [h]

/-- FADE proceeds where its channel is set up. -/
theorem proceeds_fade {n : BitVec 24} {s : State} : Proceeds s (exec (.fade n) s) ↔ (fadingSetup s).isSome = true := by
  simp only [exec, execFade]
  cases fadingSetup s with
  | none => simp
  | some x => simpa using proceeds_popSamples (fun _ _ => by simp)

theorem proceeds_noise {n : BitVec 24} {s : State} :
    Proceeds s (exec (.noise n) s) ↔ s.ch ≠ .none ∧ s.snrLin.isSome = true := by
  simp only [exec, execNoise]
  split
  · simpa [*] using proceeds_popSamples (fun _ _ => by simp)
  · simpa [*] using proceeds_popSamples (fun _ _ => by simp)
  · cases hch : s.ch <;> cases hsnr : s.snrLin <;> simp_all

theorem proceeds_chtx {n : BitVec 24} {s : State} : Proceeds s (exec (.chtx n) s) ↔
    s.snrLin.isSome = true ∧ (s.ch = .awgn ∨ (fadingSetup s).isSome = true) := by
  simp only [exec, execChtx]
  split
  · simpa [*] using proceeds_popSamples (fun _ _ => by simp)
  · split
    · simp [*]
    · simpa [*] using proceeds_popSamples (fun _ _ => by simp)
  · cases hch : s.ch <;> cases hsnr : s.snrLin <;> simp_all [fadingSetup]

/-- Whether a command that pops proceeds is a matter of the set-up registers: its input only decides between hold and answer. -/
theorem Proceeds.of_setup_eq {i : Instr} {s t : State} (hset : t.setup = s.setup) (hpop : 0 < popsBi s i + popsCi i)
    (h : Proceeds s (exec i s)) : Proceeds t (exec i t) := by
  have hactive : t.active = s.active := congrArg Setup.active hset
  have hch : t.ch = s.ch := congrArg Setup.ch hset
  have hsnr : t.snrLin = s.snrLin := congrArg Setup.snrLin hset
  have hfading : fadingSetup t = fadingSetup s := by
    unfold fadingSetup
    rw [hch, show t.profile = s.profile from congrArg Setup.profile hset, show t.chFs = s.chFs from congrArg Setup.chFs hset]
  cases i
  case enc n => exact h.needConfig hactive fun a _ => proceeds_popBits fun _ _ => rfl
  case dec n => exact h.needConfig hactive fun a _ => proceeds_popSamples fun _ _ => rfl
  case det n => exact h.needConfig hactive fun a _ => proceeds_popSamples fun _ _ => rfl
  case modsym => exact h.needConfig hactive fun a h => h.needPrefix (proceeds_popBits fun _ _ => rfl)
  case modstr n => exact h.needConfig hactive fun a h => h.needPrefix (proceeds_popBits fun _ _ => rfl)
  case demstr n => exact h.needConfig hactive fun a h => h.needPrefix (proceeds_popSamples fun _ _ => rfl)
  case demsym n =>
    refine h.needConfig hactive fun a h => ?_
    split at h
    · exact absurd h (not_proceeds_fail _ _)
    · rw [if_neg ‹_›]
      exact h.needPrefix (proceeds_popSamples fun _ _ => rfl)
  case fade n => rwa [proceeds_fade, hfading, ← proceeds_fade (n := n)]
  case noise n => rwa [proceeds_noise, hch, hsnr, ← proceeds_noise (n := n)]
  case chtx n => rwa [proceeds_chtx, hsnr, hch, hfading, ← proceeds_chtx (n := n)]
  case ser a b =>
    simp only [exec, execSer] at h ⊢
    split at h
    · exact absurd h (not_proceeds_fail _ _)
    · rw [if_neg ‹_›]
      exact proceeds_popSamples fun _ _ => rfl
  all_goals simp [popsBi, popsCi] at hpop

theorem ChecksPass.proceeds {i : Instr} {s : State} (h : ChecksPass i s) (hpop : 0 < popsBi s i + popsCi i) :
    Proceeds s (exec i s) := by
  obtain ⟨t, ht, hresp⟩ := h
  exact Proceeds.of_setup_eq (s := padInput i s) rfl hpop ⟨t, ht, .inr hresp⟩

/-- A command that proceeds has its input and its effect, or is held. -/
theorem Proceeds.effect_or_hold {i : Instr} {s : State} (h : Proceeds s (exec i s)) :
    (∃ u, Effect i s u ∧ exec i s = .next (u.respond 0 none)) ∨
    (exec i s = .next s.hold ∧ (s.bi.length < popsBi s i ∨ s.ci.length < popsCi i)) := by
  obtain ⟨t, ht, hend⟩ := h
  obtain ⟨rfl, hshort⟩ | ⟨e, rfl⟩ | ⟨r, v, -, rfl⟩ | ⟨u, hu, rfl⟩ := exec_next ht
  · exact .inr ⟨ht, hshort⟩
  · exact absurd ⟨_, rfl, hend⟩ (not_proceeds_fail e (wordOf i))
  · obtain hend | hend := hend
    · simpa using congrArg State.responses hend
    · simp at hend
  · exact .inl ⟨u, hu, ht⟩

theorem ne_reset_of_pops {i : Instr} {s : State} (hpop : 0 < popsBi s i + popsCi i) : i ≠ .reset := by
  rintro rfl
  exact absurd hpop (lt_irrefl 0)

/-- Settles O49: a command that proceeds is held or has its effect, and an effect has had its input. -/
theorem shortInputIsHeld : Obligations.ShortInputIsHeld := by
  intro s c i hp hd hchecks hshort
  have hpop : 0 < popsBi s i + popsCi i := by omega
  rw [step_of_issued hp hd, ← State.hold_of_issued hp]
  obtain ⟨u, hu, -⟩ | ⟨hhold, -⟩ := (hchecks.proceeds hpop).effect_or_hold
  · obtain ⟨⟨hb, -⟩, hc, -⟩ := hu.popsInput (ne_reset_of_pops hpop)
    omega
  · exact hhold

theorem Effect.script {i : Instr} {s u : State} (h : Effect i s u) : u.script = s.script := by
  cases i <;> simp only [Effect] at h
  case wrreg => obtain ⟨r, _, h, _⟩ := h; rw [writeReg_frame h]
  case chsel => obtain ⟨_, rfl⟩ | ⟨_, _, _, rfl⟩ := h <;> rfl
  all_goals
    repeat' (first | subst h | obtain ⟨_, h⟩ := h)
    simp

/-- The host's push while a command is held: the elements at the tail, and the command to be looked at again. -/
def State.pushedTo (s : State) (c : Command) (rest : List HostAction) (b : List Bit) (x : List Sample) : State :=
  { s with bi := s.bi ++ b, ci := s.ci ++ x, script := rest, port := .issued c }

theorem step_of_push {s : State} {c : Command} {rest : List HostAction} {b : List Bit} {x : List Sample} (hp : s.port = .held c)
    (hs : (s.script = .pushBits b :: rest ∧ x = []) ∨
      (s.script = .pushSamples x :: rest ∧ b = [] ∧ x.all Cplx.isFinite = true)) :
    step s = .next (s.pushedTo c rest b x) := by
  have hidle : ∀ c, s.port ≠ .issued c := by simp [hp]
  obtain ⟨hs, rfl⟩ | ⟨hs, rfl, hfin⟩ := hs
  · simp [step_of_script hidle hs, hostAct, State.retry, hp, State.pushedTo]
  · simp only [step_of_script hidle hs, hostAct, intake, allowed, if_pos hfin]
    simp [State.retry, hp, State.pushedTo]

/-- Settles O50: the push leaves the set-up registers, so the command still proceeds, and with its input there it is not held. -/
theorem pushLiftsHold : Obligations.PushLiftsHold := by
  intro s c i b x rest hd hp hchecks hpop hscript hb hc
  have hproceeds : Proceeds (s.pushedTo c rest b x) (exec i (s.pushedTo c rest b x)) :=
    Proceeds.of_setup_eq (s := s) rfl hpop (hchecks.proceeds hpop)
  obtain ⟨u, hu, hexec⟩ | ⟨-, hshort⟩ := hproceeds.effect_or_hold
  · obtain ⟨⟨-, hbi⟩, -, hci⟩ := hu.popsInput (ne_reset_of_pops hpop)
    refine ⟨_, u.respond 0 none, step_of_push hp hscript, (step_of_issued rfl hd).trans hexec, rfl, hu.script, hbi, hci, ?_⟩
    rw [State.respond_responses, hu.responses.1]
    rfl
  · exact absurd hshort (not_or.mpr ⟨Nat.not_lt.mpr hb, Nat.not_lt.mpr hc⟩)

/-! ### The host between commands -/

theorem allowed_of_true {c : Bool} {r : Refusal} {k : Out} (h : c = true) : allowed c r k = k := if_pos h

theorem intake_eq (l : List Sample) (k : Out) :
    intake l k = if l.all Cplx.isFinite = true then k else .refused .nonFiniteValue := rfl

/-- Settles O59: a step is the first action of the host's plan, and with no command on the port there is none to look at again. -/
theorem hostLiberties : Obligations.HostLiberties := by
  intro s rest hp
  have hstep : ∀ {h}, s.script = h :: rest → step s = hostAct h { s with script := rest } := step_of_script (by simp [hp])
  have hretry : ∀ {bi ci bo co no}, State.retry { s with bi := bi, ci := ci, bo := bo, co := co, no := no, script := rest } =
      { s with bi := bi, ci := ci, bo := bo, co := co, no := no, script := rest } := State.retry_of_idle hp
  refine ⟨?pushBits, ?pushSamples, ?popBits, ?popSamples, ?popNoise, ?xferBits, ?xferSamples, ?issue, ?reset, ?finished, ?stuck⟩
  case pushBits => intro l hs; rw [hstep hs, hostAct, hretry]
  case pushSamples => intro l hs; rw [hstep hs, hostAct, hretry, intake_eq]
  case popBits => intro n hs hn; rw [hstep hs, hostAct, hretry, allowed_of_true (decide_eq_true hn)]
  case popSamples => intro n hs hn; rw [hstep hs, hostAct, hretry, allowed_of_true (decide_eq_true hn)]
  case popNoise => intro n hs hn; rw [hstep hs, hostAct, hretry, allowed_of_true (decide_eq_true hn)]
  case xferBits => intro n hs hn; rw [hstep hs, hostAct, hretry, allowed_of_true (decide_eq_true hn)]
  case xferSamples => intro n hs hn; rw [hstep hs, hostAct, hretry, allowed_of_true (decide_eq_true hn), intake_eq]
  case issue => intro c hs; rw [hstep hs, hostAct, allowed_of_true (by simp [State.commandPending, hp])]; rfl
  case reset =>
    intro hs
    refine ⟨?_, fun c => step_of_script (s := { s with port := .held c }) (by simp) hs⟩
    rw [hstep hs, hostAct, State.retry_of_idle]
    · rw [State.resetBlock, hp]
      rfl
    · exact hp
  case finished => intro hs; simp [step, hp, hostTurn, hs, State.commandPending]
  case stuck => intro c hs; simp [step, hostTurn, hs, State.commandPending]

end Sys2Proof.Machine
end

section
/-! RDREG and WRREG, register by register (R63, R126, R128). -/

namespace Sys2Proof.Machine

/-! ### RDREG -/

theorem Reg.ofNumber_eq_none {n : BitVec 8} (h : ∀ r : Reg, r.number ≠ n) : Reg.ofNumber n = none :=
  Option.eq_none_iff_forall_ne_some.mpr fun r hr => h r (Reg.number_of_ofNumber hr)

theorem exec_rdreg_of_readReg {r : Reg} {s : State} {v : Item} (h : s.readReg r = some v) :
    exec (.rdreg r.number) s = .next (s.respond 0 (some v)) := by
  simp only [exec, execRdreg, Reg.ofNumber_number, h]

theorem exec_rdreg_of_unwritten {r : Reg} {s : State} (h : s.readReg r = none) :
    exec (.rdreg r.number) s = fail .notConfigured (wordOf (.rdreg r.number)) s := by
  simp only [exec, execRdreg, Reg.ofNumber_number, h]

theorem exec_rdreg_of_reserved {n : BitVec 8} (h : ∀ r : Reg, r.number ≠ n) (s : State) :
    exec (.rdreg n) s = fail .illegalCommand (wordOf (.rdreg n)) s := by
  simp only [exec, execRdreg, Reg.ofNumber_eq_none h]

/-- Settles O9: a number names its register, written or not, or none. -/
theorem rdregAnswersOrFails : Obligations.RdregAnswersOrFails := by
  intro s reg
  refine ⟨?_, ?_, fun h => exec_rdreg_of_reserved h s⟩
  · rintro r v rfl h
    exact exec_rdreg_of_readReg h
  · rintro r rfl h
    exact exec_rdreg_of_unwritten h

/-! ### WRREG -/

theorem boolWord_of_boolOfWord {w : Word} {b : Bool} (h : boolOfWord w = some b) : boolWord b = w := by
  unfold boolOfWord at h
  split at h
  · cases h; exact Eq.symm ‹_›
  · split at h <;> cases h
    exact Eq.symm ‹_›

theorem cpTypeWord_of_cpTypeOfWord {w : Word} {c : CpType} (h : cpTypeOfWord w = some c) : cpTypeWord c = w := by
  unfold cpTypeOfWord at h
  split at h
  · cases h; exact Eq.symm ‹_›
  · split at h <;> cases h
    exact Eq.symm ‹_›

/-- `STATUS` of its five flags (R31). -/
def flagWord (cfg ch fs prof snr : Bool) : Word :=
  BitVec.ofNat 32 (cfg.toNat + 2 * ch.toNat + 4 * fs.toNat + 8 * prof.toNat + 16 * snr.toNat)

theorem statusWord_eq_flagWord (s : State) :
    s.statusWord = flagWord s.cfgValid s.chValid s.fsValid s.profValid s.snrValid := rfl

theorem flagWord_fs : ∀ cfg ch fs prof snr, flagWord cfg ch true prof snr = flagWord cfg ch fs prof snr ||| 4 := by decide

theorem flagWord_snr : ∀ cfg ch fs prof snr, flagWord cfg ch fs prof true = flagWord cfg ch fs prof snr ||| 16 := by decide

/-- `FS`, written, sets `FS_VALID`, bit 2 of `STATUS`, and no other flag (R31). -/
theorem statusWord_of_fs (s : State) (x : Scalar) : State.statusWord { s with fs := some x } = s.statusWord ||| 4 := by
  rw [statusWord_eq_flagWord, statusWord_eq_flagWord]
  exact flagWord_fs ..

/-- `SNR_LIN`, written, sets `SNR_VALID`, bit 4 of `STATUS`, and no other flag (R31). -/
theorem statusWord_of_snrLin (s : State) (x : Scalar) :
    State.statusWord { s with snrLin := some x } = s.statusWord ||| 16 := by
  rw [statusWord_eq_flagWord, statusWord_eq_flagWord]
  exact flagWord_snr ..

section write
variable {r : Reg} {v : Item} {s t : State}

/-- The values a writable register takes (R128): of its kind, and 0 or 1 where it is two-valued. -/
theorem exists_writeReg (s : State) (hw : r.writable = true) (hk : v.kind = r.kind)
    (h2 : r = .sScfdm ∨ r = .sCptype → v = .nat32 0 ∨ v = .nat32 1) : ∃ t, s.writeReg r v = some t := by
  cases r
  case sScfdm => obtain rfl | rfl := h2 (.inl rfl) <;> exact ⟨_, rfl⟩
  case sCptype => obtain rfl | rfl := h2 (.inr rfl) <;> exact ⟨_, rfl⟩
  all_goals cases v <;> simp_all [Reg.writable, Item.kind, Reg.kind, State.writeReg]

/-- R63: a register reads back what was written. -/
theorem readReg_of_writeReg (h : s.writeReg r v = some t) : t.readReg r = some v := by
  cases r <;> cases v <;> simp only [State.writeReg, Option.some.injEq, Option.map_eq_some_iff, reduceCtorEq] at h
  case sScfdm.nat32 => obtain ⟨b, hb, rfl⟩ := h; simp [State.readReg, boolWord_of_boolOfWord hb]
  case sCptype.nat32 => obtain ⟨c, hc, rfl⟩ := h; simp [State.readReg, cpTypeWord_of_cpTypeOfWord hc]
  all_goals subst h; rfl

/-- Every register but the one written and STATUS, which reports the flags, reads as before. -/
theorem readReg_of_writeReg_of_ne (h : s.writeReg r v = some t) {q : Reg} (hq : q ≠ r) (hs : q ≠ .status) :
    t.readReg q = s.readReg q := by
  cases r <;> cases v <;> simp only [State.writeReg, Option.some.injEq, Option.map_eq_some_iff, reduceCtorEq] at h
  case sScfdm.nat32 => obtain ⟨b, -, rfl⟩ := h; cases q <;> simp [State.readReg, State.tapCount] at hq hs ⊢
  case sCptype.nat32 => obtain ⟨c, -, rfl⟩ := h; cases q <;> simp [State.readReg, State.tapCount] at hq hs ⊢
  all_goals subst h; cases q <;> simp [State.readReg, State.tapCount] at hq hs ⊢

theorem snrLin_of_writeReg (h : s.writeReg r v = some t) (hr : r ≠ .snrLin) : t.snrLin = s.snrLin :=
  Option.map_injective (fun _ _ => Item.scalar.inj) (readReg_of_writeReg_of_ne h hr.symm (by decide))

/-- A write of a register other than `SNR_LIN` sets at most `FS_VALID`. -/
theorem statusWord_of_writeReg (h : s.writeReg r v = some t) (hr : r ≠ .snrLin) :
    t.statusWord = s.statusWord ||| (if r = .fs then 4 else 0) := by
  cases r <;> cases v <;> simp only [State.writeReg, Option.some.injEq, Option.map_eq_some_iff, reduceCtorEq] at h
  case snrLin.scalar => exact absurd rfl hr
  case fs.scalar x => subst h; exact statusWord_of_fs s x
  case sScfdm.nat32 => obtain ⟨b, -, rfl⟩ := h; exact (BitVec.or_zero).symm
  case sCptype.nat32 => obtain ⟨c, -, rfl⟩ := h; exact (BitVec.or_zero).symm
  all_goals subst h; exact (BitVec.or_zero).symm

theorem exec_wrreg_of_writeReg (h : s.writeReg r v = some t) :
    exec (.wrreg r.number v) s = if refusedWrite r v then .refused .snrNotPositive else complete t := by
  simp only [exec, execWrreg, Reg.ofNumber_number, h]

theorem refusedWrite_of_ne (hr : r ≠ .snrLin) : refusedWrite r v = false := by
  cases r <;> simp_all [refusedWrite]

end write

theorem State.respond_readReg (code : Nat) (data : Option Item) (s : State) (q : Reg) :
    (s.respond code data).readReg q = s.readReg q := rfl

theorem State.respond_statusWord (code : Nat) (data : Option Item) (s : State) :
    (s.respond code data).statusWord = s.statusWord := rfl

/-- Settles O10: a legal write succeeds, and the response is not among the registers. -/
theorem wrregWritesOneRegister : Obligations.WrregWritesOneRegister := by
  intro s
  refine ⟨fun r v hw hr hk h2 => ?_, fun x => ?_⟩
  · obtain ⟨t, ht⟩ := exists_writeReg s hw hk h2
    refine ⟨t.respond 0 none, ?exec, ?back, fun q hq hs => ?others, ?status, ?frame⟩
    case exec =>
      rw [exec_wrreg_of_writeReg ht, refusedWrite_of_ne hr]
      rfl
    case back => rw [State.respond_readReg, readReg_of_writeReg ht]
    case others => rw [State.respond_readReg, readReg_of_writeReg_of_ne ht hq hs]
    case status => rw [State.respond_statusWord, statusWord_of_writeReg ht hr]
    case frame =>
      have hframe := writeReg_frame ht
      rw [snrLin_of_writeReg ht hr] at hframe
      exact congrArg (State.respond 0 none) hframe
  · have ht : s.writeReg .snrLin (.scalar x) = some { s with snrLin := some x } := rfl
    refine ⟨State.respond 0 none { s with snrLin := some x }, ?exec, rfl, fun q hq hs => ?others, ?status, rfl⟩
    case exec =>
      refine (exec_wrreg_of_writeReg ht).trans ?_
      cases h : Config.num.lt (Config.num.ofNat 0) x <;> simp [refusedWrite, NumSys.zero, h, complete]
    case others => rw [State.respond_readReg, readReg_of_writeReg_of_ne ht hq hs]
    case status => rw [State.respond_statusWord, statusWord_of_snrLin]

end Sys2Proof.Machine
end

section
/-! The noise step and CHTX as FADE and NOISE (R212 to R216). -/

namespace Sys2Proof.Machine

section channel
variable {s : State} {snr : Scalar} {n : BitVec 24}

/-- NOISE on a channel with an SNR and its input there. -/
theorem exec_noise_of_le (hch : s.ch ≠ .none) (hsnr : s.snrLin = some snr) (hn : n.toNat ≤ s.ci.length) :
    exec (.noise n) s = complete (noiseStep snr (s.ci.take n.toNat) { s with ci := s.ci.drop n.toNat }) := by
  cases h : s.ch with
  | none => exact absurd h hch
  | awgn => simp [exec, execNoise, h, hsnr, popSamples_of_le hn]
  | rayleigh f => simp [exec, execNoise, h, hsnr, popSamples_of_le hn]

theorem noiseDraw_of_eq_zero {k m : Nat} {pn : Scalar} (h : Config.num.eq pn (Config.num.ofNat 0) = true) :
    noiseDraw k m pn = Config.num.zeros m := if_pos h

/-- A fade draw is a signal of the input's length, and the draw counted. -/
theorem fadeDraw_drawn (p : Profile) (fs : Scalar) (x : List Sample) (s : State) :
    ∃ f d, fadeDraw p fs x s = (f, { s with draws := d }) ∧ f.length = x.length :=
  ⟨_, _, Prod.ext rfl (fadeDraw_state ..), fadeDraw_length ..⟩

/-- FADE on a multipath channel with its input there. -/
theorem exec_fade_of_le {p : Profile} {r : Scalar} (hset : fadingSetup s = some (p, r)) (hn : n.toNat ≤ s.ci.length) :
    exec (.fade n) s =
      let d := fadeDraw p r (s.ci.take n.toNat) { s with ci := s.ci.drop n.toNat }
      complete (d.2.pushSamples d.1) := by
  simp [exec, execFade, hset, popSamples_of_le hn]

/-- CHTX on a multipath channel with an SNR and its input there. -/
theorem exec_chtx_of_le {f : Filter} {p : Profile} {r : Scalar} (hch : s.ch = .rayleigh f) (hsnr : s.snrLin = some snr)
    (hset : fadingSetup s = some (p, r)) (hn : n.toNat ≤ s.ci.length) :
    exec (.chtx n) s =
      let d := fadeDraw p r (s.ci.take n.toNat) { s with ci := s.ci.drop n.toNat }
      complete (noiseStep snr d.1 d.2) := by
  simp [exec, execChtx, hch, hsnr, hset, popSamples_of_le hn]

end channel

/-- Settles O40: the noise step on no samples is nothing, and on n of them `noiseStep_of_ne`. -/
theorem noiseAddsDraw : Obligations.NoiseAddsDraw := by
  intro s snr n hch hsnr hn x p
  have hx : x.length = n.toNat := List.length_take_of_le hn
  refine ⟨fun h0 => ?_, fun h0 => ⟨noiseDraw s.draws n.toNat (Config.num.div p snr), ?_, noiseDraw_length .., fun hpn => ?_⟩⟩
  · subst h0
    rw [exec_noise_of_le hch hsnr hn]
    rfl
  · have hne : x ≠ [] := by
      rw [← List.length_pos_iff, hx]
      exact Nat.pos_of_ne_zero (by simpa [← BitVec.toNat_inj] using h0)
    rw [exec_noise_of_le hch hsnr hn, noiseStep_of_ne hne, hx]
    rfl
  · exact noiseDraw_of_eq_zero hpn

/-- The noise step does not look at the responses or the port. -/
theorem noiseStep_respond (snr : Scalar) (x : List Sample) (code : Nat) (data : Option Item) (s : State) :
    noiseStep snr x (s.respond code data) = (noiseStep snr x s).respond code data := by
  unfold noiseStep
  split <;> rfl

/-- A transfer of everything in `CO` to an empty `CI`, with no command on the port (R78). -/
theorem hostAct_xferSamples_all {n : Nat} {s : State} (hp : s.port = .idle) (hci : s.ci = []) (hco : s.co.length = n)
    (hfin : s.co.all Cplx.isFinite = true) : hostAct (.xferSamples n) s = .next { s with co := [], ci := s.co } := by
  subst hco
  rw [hostAct, allowed_of_true (decide_eq_true le_rfl), List.take_length, intake_eq, if_pos hfin, List.drop_length, hci,
    List.nil_append]
  exact congrArg Host.Outcome.next (State.retry_of_idle hp)

/-- The transfer of a fading output to `CI` and NOISE on it are the noise step on that output. -/
theorem exec_noise_of_transfer {s : State} {snr : Scalar} {n : BitVec 24} {f : List Sample} (hch : s.ch ≠ .none)
    (hsnr : s.snrLin = some snr) (hci : s.ci = []) (hf : f.length = n.toNat) :
    exec (.noise n) { s.respond 0 none with ci := f } = complete ((noiseStep snr f s).respond 0 none) := by
  have hs : { s.respond 0 none with ci := f.drop n.toNat } = s.respond 0 none := by
    rw [← hf, List.drop_length, ← hci]
    rfl
  refine (exec_noise_of_le (s := { s.respond 0 none with ci := f }) hch hsnr hf.ge).trans ?_
  rw [hs, ← noiseStep_respond, ← hf, List.take_length]

/-- Settles O43: both runs are the noise step on the same faded signal; FADE has responded in between. -/
theorem chtxIsFadeThenNoise : Obligations.ChtxIsFadeThenNoise := by
  intro s snr g p r n hsnr hch hp hr hn hco
  have hset : fadingSetup s = some (p, r) := fadingSetup_eq_some.mpr ⟨⟨g, hch⟩, hp, hr⟩
  have htake : s.ci.take n.toNat = s.ci := by rw [← hn, List.take_length]
  have hdrop : s.ci.drop n.toNat = [] := by rw [← hn, List.drop_length]
  obtain ⟨f, d, hdraw, hf⟩ := fadeDraw_drawn p r s.ci { s with ci := [] }
  rw [hn] at hf
  generalize hu : ({ s with ci := [], draws := d } : State) = u at hdraw
  have hfade : exec (.fade n) s = complete (u.pushSamples f) := by
    rw [exec_fade_of_le hset hn.ge, htake, hdrop, hdraw]
  have hchtx : exec (.chtx n) s = complete (noiseStep snr f u) := by
    rw [exec_chtx_of_le hch hsnr hset hn.ge, htake, hdrop, hdraw]
  have hnoise := exec_noise_of_transfer (s := u) (by simp [← hu, hch]) (by rw [← hu, hsnr]) (by rw [← hu]) hf
  have hout : ((u.pushSamples f).respond 0 none).co = f := by simp [← hu, hco]
  have hlen : ((u.pushSamples f).respond 0 none).co.length = n.toNat := by rw [hout, hf]
  have hmoved : { (u.pushSamples f).respond 0 none with co := [], ci := f } = { u.respond 0 none with ci := f } := by
    simp [← hu, hco, State.pushSamples, State.respond]
  refine ⟨_, ((noiseStep snr f u).respond 0 none).respond 0 none, _, hfade, hlen,
    hostAct_xferSamples_all rfl (by simp [← hu]) hlen, ?_, hchtx, rfl, rfl, rfl, rfl, rfl, rfl⟩
  rw [hout, hmoved]
  exact hnoise

end Sys2Proof.Machine
end

section
/-! The decoder and the encoder (R91 to R105): format by format, then every command. -/

namespace Sys2Proof

section formats
variable {w : Word} {pl : List Item} {i j : Instr}

/-! ### What each format's decoder accepts -/

theorem decodeZ_eq_ok : decodeZ w pl i = .ok j ↔ argField w = 0 ∧ pl = [] ∧ i = j := by
  unfold decodeZ
  split_ifs <;> simp_all

theorem decodeByte_eq_ok {mk : BitVec 8 → Instr} :
    decodeByte w pl mk = .ok j ↔ midField w = 0 ∧ pl = [] ∧ mk (lowField w) = j := by
  unfold decodeByte
  split_ifs <;> simp_all

theorem decodeN_eq_ok {mk : BitVec 24 → Instr} : decodeN w pl mk = .ok j ↔ pl = [] ∧ mk (argField w) = j := by
  unfold decodeN
  split_ifs <;> simp_all

theorem decodeP_eq_ok {mk : BitVec 12 → BitVec 12 → Instr} :
    decodeP w pl mk = .ok j ↔ pl = [] ∧ mk (aField w) (bField w) = j := by
  unfold decodeP
  split_ifs <;> simp_all

theorem decodeWrite_eq_ok :
    decodeWrite w pl = .ok j ↔
      midField w = 0 ∧ ∃ v, pl = [v] ∧ v.kind = kindOfReg (lowField w) ∧ .wrreg (lowField w) v = j := by
  unfold decodeWrite
  split_ifs
  · simp_all
  · split
    · split_ifs <;> simp_all
    · simp_all

theorem decodeProfile_eq_ok :
    decodeProfile w pl = .ok j ↔
      midField w = 0 ∧ lowField w ≠ 0 ∧
        ∃ taps fd, readProfile (lowField w).toNat pl = some (taps, fd) ∧ .profld taps fd = j := by
  unfold decodeProfile
  split_ifs
  · simp_all
  · simp_all
  · split <;> simp_all

/-! ### A word is put together again from its fields -/

variable {o : Opcode}

theorem wordZ_eq (hb : o.byte = opField w) (ha : argField w = 0) : wordZ o = w := by
  rw [wordZ, hb, ← ha, ← word_eq_append]

theorem wordByte_eq (hb : o.byte = opField w) (hm : midField w = 0) : wordByte o (lowField w) = w := by
  rw [wordByte, hb, ← argField_eq_append w hm, ← word_eq_append]

theorem wordN_eq (hb : o.byte = opField w) : wordN o (argField w) = w := by
  rw [wordN, hb, ← word_eq_append]

theorem wordP_eq (hb : o.byte = opField w) : wordP o (aField w) (bField w) = w := by
  rw [wordP, hb, ← argField_eq_counts, ← word_eq_append]

end formats

theorem Opcode.ofByte_eq_some {b : BitVec 8} {o : Opcode} : Opcode.ofByte b = some o ↔ o.byte = b :=
  ⟨Opcode.byte_of_ofByte, fun h => h ▸ o.ofByte_byte⟩

/-- A command decodes as the operands of its opcode. -/
theorem decode_of_opField {o : Opcode} {w : Word} (hb : o.byte = opField w) (pl : List Item) :
    decode ⟨w, pl⟩ = decodeOperands o w pl := by
  simp only [decode, Opcode.ofByte_eq_some.mpr hb]

/-- A word of any format carries its opcode in its top byte (R90). -/
theorem decode_append (o : Opcode) (n : BitVec 24) (pl : List Item) :
    decode ⟨o.byte ++ n, pl⟩ = decodeOperands o (o.byte ++ n) pl :=
  decode_of_opField (opField_append o.byte n).symm pl

/-- The tap count of a well-formed profile fits the low byte and is not 0 (R97). -/
theorem wellFormed_profld {taps : List Tap} {fd : Scalar} :
    (Instr.profld taps fd).wellFormed = true ↔ 1 ≤ taps.length ∧ taps.length ≤ 255 := by
  simp [Instr.wellFormed]

/-- Settles O1: each format's fields are read back from the word they were put in. -/
theorem decodeOfEncode : Obligations.DecodeOfEncode := by
  intro i hwf
  cases i
  case nop | reset | clrerr | commit | modsym =>
    exact (decode_append ..).trans (decodeZ_eq_ok.mpr ⟨argField_append .., rfl, rfl⟩)
  case rdreg | chsel =>
    exact (decode_append ..).trans
      (decodeByte_eq_ok.mpr ⟨midField_append .., rfl, congrArg _ (lowField_append ..)⟩)
  case enc | dec | modstr | demsym | demstr | fade | noise | chtx | det =>
    exact (decode_append ..).trans (decodeN_eq_ok.mpr ⟨rfl, congrArg _ (argField_append ..)⟩)
  case ser =>
    exact (decode_append ..).trans
      (decodeP_eq_ok.mpr ⟨rfl, congrArg₂ _ (aField_append ..) (bField_append ..)⟩)
  case wrreg reg v =>
    have hlow := lowField_append Opcode.wrreg.byte reg
    refine (decode_append ..).trans (decodeWrite_eq_ok.mpr ⟨midField_append .., v, rfl, ?_, congrArg (Instr.wrreg · v) hlow⟩)
    rw [hlow]
    exact beq_iff_eq.mp hwf
  case profld taps fd =>
    obtain ⟨hpos, hle⟩ := wellFormed_profld.mp hwf
    have hlow := lowField_append Opcode.profld.byte (BitVec.ofNat 8 taps.length)
    have hlen : (BitVec.ofNat 8 taps.length).toNat = taps.length := by simp; omega
    refine (decode_append ..).trans (decodeProfile_eq_ok.mpr ⟨midField_append .., ?_, taps, fd, ?_, rfl⟩)
    · rw [hlow, ne_eq, ← BitVec.toNat_inj, hlen]
      exact Nat.ne_of_gt hpos
    · rw [hlow, hlen]
      exact readProfile_items taps fd

/-- Settles O2: each format's decoder leaves no bit of the word and no payload item out. -/
theorem encodeOfDecode : Obligations.EncodeOfDecode := by
  rintro ⟨w, pl⟩ i h
  obtain ⟨o, hb⟩ : ∃ o : Opcode, o.byte = opField w := by
    cases ho : Opcode.ofByte (opField w) with
    | none => simp [decode, ho] at h
    | some o => exact ⟨o, Opcode.byte_of_ofByte ho⟩
  rw [decode_of_opField hb] at h
  cases o
  case nop | reset | clrerr | commit | modsym =>
    obtain ⟨ha, rfl, rfl⟩ := decodeZ_eq_ok.mp h
    exact ⟨rfl, congrArg (Command.mk · []) (wordZ_eq hb ha)⟩
  case rdreg | chsel =>
    obtain ⟨hm, rfl, rfl⟩ := decodeByte_eq_ok.mp h
    exact ⟨rfl, congrArg (Command.mk · []) (wordByte_eq hb hm)⟩
  case enc | dec | modstr | demsym | demstr | fade | noise | chtx | det =>
    obtain ⟨rfl, rfl⟩ := decodeN_eq_ok.mp h
    exact ⟨rfl, congrArg (Command.mk · []) (wordN_eq hb)⟩
  case ser =>
    obtain ⟨rfl, rfl⟩ := decodeP_eq_ok.mp h
    exact ⟨rfl, congrArg (Command.mk · []) (wordP_eq hb)⟩
  case wrreg =>
    obtain ⟨hm, v, rfl, hk, rfl⟩ := decodeWrite_eq_ok.mp h
    exact ⟨beq_iff_eq.mpr hk, congrArg (Command.mk · [v]) (wordByte_eq hb hm)⟩
  case profld =>
    obtain ⟨hm, hlow, taps, fd, hread, rfl⟩ := decodeProfile_eq_ok.mp h
    obtain ⟨hlen, rfl⟩ : taps.length = (lowField w).toNat ∧ profileItems taps fd = pl := items_of_readProfile hread
    have hpos : (lowField w).toNat ≠ 0 := fun h0 => hlow (BitVec.eq_of_toNat_eq h0)
    refine ⟨wellFormed_profld.mpr (by omega), ?_⟩
    rw [encode, hlen, BitVec.ofNat_toNat, BitVec.setWidth_eq, wordByte_eq hb hm]


/-! ### The grounds of R103 -/

theorem Opcode.mem_all (o : Opcode) : o ∈ Opcode.all := by cases o <;> decide

/-- The opcodes by format are the opcodes of the decoder's table (R99). -/
theorem formats_perm_bytes : (formatZ ++ formatByte ++ formatCount).Perm (Opcode.all.map fun o => o.byte.toNat) := by decide

theorem mem_formats_iff {b : BitVec 8} : b.toNat ∈ formatZ ++ formatByte ++ formatCount ↔ ∃ o : Opcode, o.byte = b := by
  rw [formats_perm_bytes.mem_iff]
  simp [Opcode.mem_all, BitVec.toNat_inj]

theorem Item.kind_eq_scalar {v : Item} : v.kind = .scalar ↔ ∃ x, v = .scalar x := by
  cases v <;> simp [Item.kind]

theorem map_kind_profileItems (taps : List Tap) (fd : Scalar) :
    (profileItems taps fd).map Item.kind = List.replicate (2 * taps.length + 1) .scalar := by
  induction taps with
  | nil => rfl
  | cons t ts ih => simp [profileItems, ih, Item.kind, Nat.mul_add, List.replicate_succ]

/-- A payload of 2L + 1 Scalars is a profile of L taps (R100). -/
theorem exists_profileItems_of_map_kind {n : Nat} {pl : List Item}
    (h : pl.map Item.kind = List.replicate (2 * n + 1) .scalar) :
    ∃ taps fd, taps.length = n ∧ profileItems taps fd = pl := by
  induction n generalizing pl with
  | zero =>
    obtain ⟨v, rfl, hv⟩ := List.map_eq_singleton_iff.mp h
    obtain ⟨fd, rfl⟩ := Item.kind_eq_scalar.mp hv
    exact ⟨[], fd, rfl, rfl⟩
  | succ n ih =>
    obtain ⟨u, us, rfl, hu, hus⟩ := List.map_eq_cons_iff.mp h
    obtain ⟨v, vs, rfl, hv, hvs⟩ := List.map_eq_cons_iff.mp hus
    obtain ⟨d, rfl⟩ := Item.kind_eq_scalar.mp hu
    obtain ⟨g, rfl⟩ := Item.kind_eq_scalar.mp hv
    obtain ⟨taps, fd, hlen, rfl⟩ := ih hvs
    exact ⟨⟨d, g⟩ :: taps, fd, congrArg (· + 1) hlen, rfl⟩

theorem exists_readProfile_iff {n : Nat} {pl : List Item} :
    (∃ p, readProfile n pl = some p) ↔ pl.map Item.kind = List.replicate (2 * n + 1) .scalar := by
  constructor
  · rintro ⟨p, hp⟩
    obtain ⟨rfl, rfl⟩ := items_of_readProfile hp
    exact map_kind_profileItems ..
  · intro h
    obtain ⟨taps, fd, rfl, rfl⟩ := exists_profileItems_of_map_kind h
    exact ⟨_, readProfile_items taps fd⟩

section grounds
variable {o : Opcode} {w : Word} {pl : List Item}

/-- In format Z only the argument and the payload can be wrong. -/
theorem illegalByRule_formatZ (ho : (opField w).toNat ∈ formatZ) :
    IllegalByRule ⟨w, pl⟩ ↔ argField w ≠ 0 ∨ pl ≠ [] := by
  have hnot : ∀ k ∈ formatZ, k ∉ formatByte ∧ k ≠ 0x04 ∧ k ≠ 0x31 := by decide
  obtain ⟨hb, h4, h31⟩ := hnot _ ho
  simp [IllegalByRule, calledKinds, ho, hb, h4, h31]

/-- In formats R, C and L the high bits of the argument, the tap count and the payload can be wrong. -/
theorem illegalByRule_formatByte (ho : (opField w).toNat ∈ formatByte) :
    IllegalByRule ⟨w, pl⟩ ↔
      midField w ≠ 0 ∨ ((opField w).toNat = 0x31 ∧ lowField w = 0) ∨ pl.map Item.kind ≠ calledKinds w := by
  have hnot : ∀ k ∈ formatByte, k ∉ formatZ := by decide
  simp [IllegalByRule, ho, hnot _ ho]

/-- In formats N and P only the payload can be wrong. -/
theorem illegalByRule_formatCount (ho : (opField w).toNat ∈ formatCount) : IllegalByRule ⟨w, pl⟩ ↔ pl ≠ [] := by
  have hnot : ∀ k ∈ formatCount, k ∉ formatZ ∧ k ∉ formatByte ∧ k ≠ 0x04 ∧ k ≠ 0x31 := by decide
  obtain ⟨hz, hb, h4, h31⟩ := hnot _ ho
  simp [IllegalByRule, calledKinds, ho, hz, hb, h4, h31]

theorem exists_decodeOperands_iff (hb : o.byte = opField w) :
    (∃ i, decodeOperands o w pl = .ok i) ↔ ¬ IllegalByRule ⟨w, pl⟩ := by
  have hn : (opField w).toNat = o.byte.toNat := congrArg _ hb.symm
  cases o
  case nop | reset | clrerr | commit | modsym =>
    rw [illegalByRule_formatZ (hn ▸ by decide)]
    simp [decodeOperands, decodeZ_eq_ok]
  case enc | dec | modstr | demsym | demstr | fade | noise | chtx | det =>
    rw [illegalByRule_formatCount (hn ▸ by decide)]
    simp [decodeOperands, decodeN_eq_ok]
  case ser =>
    rw [illegalByRule_formatCount (hn ▸ by decide)]
    simp [decodeOperands, decodeP_eq_ok]
  case rdreg | chsel =>
    rw [illegalByRule_formatByte (hn ▸ by decide)]
    simp [decodeOperands, decodeByte_eq_ok, calledKinds, hn, Opcode.byte]
  case wrreg =>
    rw [illegalByRule_formatByte (hn ▸ by decide)]
    simp [decodeOperands, decodeWrite_eq_ok, calledKinds, hn, Opcode.byte, List.map_eq_singleton_iff]
  case profld =>
    rw [illegalByRule_formatByte (hn ▸ by decide)]
    simp [decodeOperands, decodeProfile_eq_ok, calledKinds, hn, Opcode.byte, ← exists_readProfile_iff]

end grounds

theorem exists_error_iff {ε α : Type} {x : Except ε α} : (∃ e, x = .error e) ↔ ¬ ∃ a, x = .ok a := by
  cases x <;> simp

/-- Settles O3: a byte outside R99 names no opcode, and each format's decoder refuses exactly on its own grounds. -/
theorem illegalExactlyByRule : Obligations.IllegalExactlyByRule := by
  rintro ⟨w, pl⟩
  by_cases ho : ∃ o : Opcode, o.byte = opField w
  · obtain ⟨o, hb⟩ := ho
    rw [decode_of_opField hb, exists_error_iff, exists_decodeOperands_iff hb, not_not]
  · have hnone : Opcode.ofByte (opField w) = none :=
      Option.eq_none_iff_forall_ne_some.mpr fun o h => ho ⟨o, Opcode.byte_of_ofByte h⟩
    exact iff_of_true ⟨.undefinedOpcode, by simp only [decode, hnone]⟩ (.inl (mt mem_formats_iff.mp ho))

/-- Settles O4: each word is the encoding of its instruction. -/
theorem sampleWordsDecode : Obligations.SampleWordsDecode := by
  refine ⟨decodeOfEncode .commit rfl, decodeOfEncode (.rdreg 0x30) rfl, decodeOfEncode (.wrreg 0x05 (.nat32 1)) rfl,
    decodeOfEncode (.enc 10000) rfl, decodeOfEncode (.chsel 1) rfl, fun d g e h f => ?_, decodeOfEncode (.ser 4095 0) rfl⟩
  have hword : wordByte .profld (BitVec.ofNat 8 2) = 0x31000002 := rfl
  rw [← hword]
  exact decodeOfEncode (.profld [⟨d, g⟩, ⟨e, h⟩] f) rfl

end Sys2Proof
end

section
/-! An illegal command, an illegal write, and CONFIG (R103, R107, R128). -/

namespace Sys2Proof.Machine

/-! ### Commands that only raise IllegalCommand -/

theorem step_of_error {s : State} {c : Command} {e : Illegal} (hp : s.port = .issued c) (hd : decode c = .error e) :
    step s = fail .illegalCommand c.word s := by
  simp [step, hp, hd, rejectCommand]

/-- Settles O6: the decoder refuses it, and bit 5 of ERR is `0x20`. -/
theorem stepRejectsIllegalCommand : Obligations.StepRejectsIllegalCommand := by
  intro s c hp hill
  obtain ⟨e, hd⟩ := (illegalExactlyByRule c).mpr hill
  exact step_of_error hp hd

/-- A write succeeds with an item of the register's kind only, and with 0 or 1 only where the register is two-valued (R128). -/
theorem writeReg_value {r : Reg} {v : Item} {s t : State} (h : s.writeReg r v = some t) :
    v.kind = r.kind ∧ (r = .sScfdm ∨ r = .sCptype → v = .nat32 0 ∨ v = .nat32 1) := by
  cases r <;> cases v <;> simp only [State.writeReg, Option.some.injEq, Option.map_eq_some_iff, reduceCtorEq] at h
  case sScfdm.nat32 x =>
    obtain ⟨b, hb, -⟩ := h
    obtain rfl := boolWord_of_boolOfWord hb
    cases b <;> simp [Item.kind, Reg.kind, boolWord]
  case sCptype.nat32 x =>
    obtain ⟨c, hc, -⟩ := h
    obtain rfl := cpTypeWord_of_cpTypeOfWord hc
    cases c <;> simp [Item.kind, Reg.kind, cpTypeWord]
  all_goals exact ⟨rfl, nofun⟩

theorem exec_wrreg_of_writeReg_eq_none {r : Reg} {v : Item} {s : State} (h : s.writeReg r v = none) :
    exec (.wrreg r.number v) s = fail .illegalCommand (wordOf (.wrreg r.number v)) s := by
  simp only [exec, execWrreg, Reg.ofNumber_number, h]

theorem exec_wrreg_of_reserved {n : BitVec 8} (h : ∀ r : Reg, r.number ≠ n) (v : Item) (s : State) :
    exec (.wrreg n v) s = fail .illegalCommand (wordOf (.wrreg n v)) s := by
  simp only [exec, execWrreg, Reg.ofNumber_eq_none h]

/-- Settles O11: a write that succeeds meets none of the grounds. -/
theorem wrregIllegal : Obligations.WrregIllegal := by
  rintro s reg v (hres | ⟨r, rfl, hr⟩)
  · exact exec_wrreg_of_reserved hres v s
  · refine exec_wrreg_of_writeReg_eq_none (Option.eq_none_iff_forall_ne_some.mpr fun t ht => ?_)
    obtain ⟨hkind, htwo⟩ := writeReg_value ht
    obtain hro | hne | ⟨htv, h0, h1⟩ := hr
    · exact Bool.false_ne_true (hro.symm.trans (writeReg_writable ht))
    · exact hne hkind
    · exact (htwo htv).elim h0 h1

/-! ### The host's plan, command by command -/

theorem run_succ_of_next {s t : State} (h : step s = .next t) (k : Nat) :
    Host.Core.run core (k + 1) s = Host.Core.run core k t := by
  have hcore : core.step s = .next t := h
  simp only [Host.Core.run, hcore]

/-- The plan's next command takes two steps: the host issues it, and the engine executes what it decodes to. -/
theorem run_issueInstr {s t : State} {i : Instr} {rest : List HostAction} (hp : s.port = .idle)
    (hs : s.script = issueInstr i :: rest) (hwf : i.wellFormed = true) (hfin : (encode i).payload.all Item.isFinite = true)
    (h : exec i { s with script := rest, port := .issued (encode i) } = .next t) (k : Nat) :
    Host.Core.run core (k + 2) s = Host.Core.run core k t := by
  have hissue : step s = .next { s with script := rest, port := .issued (encode i) } := by
    rw [step_of_script (by simp [hp]) hs, issueInstr, hostAct, allowed_of_true (by simp [State.commandPending, hp]),
      allowed_of_true hfin]
  rw [run_succ_of_next hissue, run_succ_of_next ((step_of_issued rfl (decodeOfEncode i hwf)).trans h)]

/-- A Nat32 register of the plan is written (R128). -/
theorem run_writeCommand {s : State} {r : Reg} {x : Word} {f : Staged → Staged} {rest : List HostAction}
    (hp : s.port = .idle) (hs : s.script = writeCommand r (.nat32 x) :: rest)
    (hf : ∀ u : State, u.writeReg r (.nat32 x) = some { u with staged := f u.staged }) (k : Nat) :
    Host.Core.run core (k + 2) s =
      Host.Core.run core k (State.respond 0 none { s with staged := f s.staged, script := rest }) := by
  have hwf : (Instr.wrreg r.number (.nat32 x)).wellFormed = true := by
    simp [Instr.wellFormed, kindOfReg, Reg.ofNumber_number, (writeReg_value (hf s)).1]
  refine run_issueInstr hp hs hwf rfl ((exec_wrreg_of_writeReg (hf _)).trans ?_) k
  have hr : r ≠ .snrLin := by rintro rfl; exact absurd (hf s) nofun
  rw [refusedWrite_of_ne hr]
  rfl

/-- The staged registers with the four that CONFIG always writes (R107). -/
def Staged.withLink (n nc cp modId : Word) (g : Staged) : Staged :=
  { g with nfft := some n, nc := some nc, cplen := some cp, mod := some modId }

/-- The four writes of CONFIG that are always there (R107). -/
theorem run_configWrites {s : State} {n nc cp modId : Word} {rest : List HostAction} (hp : s.port = .idle)
    (hs : s.script = writeCommand .sNfft (.nat32 n) :: writeCommand .sNc (.nat32 nc) :: writeCommand .sCplen (.nat32 cp) ::
      writeCommand .sMod (.nat32 modId) :: rest) (k : Nat) :
    ∃ u : State, Host.Core.run core (k + 8) s = Host.Core.run core k u ∧ u.port = .idle ∧ u.script = rest ∧ u.err = s.err ∧
      u.staged = s.staged.withLink n nc cp modId := by
  have hnfft := run_writeCommand (f := fun g => { g with nfft := some n }) hp hs (fun _ => rfl) (k + 6)
  have hnc := hnfft.trans (run_writeCommand (f := fun g => { g with nc := some nc }) rfl rfl (fun _ => rfl) (k + 4))
  have hcp := hnc.trans (run_writeCommand (f := fun g => { g with cplen := some cp }) rfl rfl (fun _ => rfl) (k + 2))
  have hmod := hcp.trans (run_writeCommand (f := fun g => { g with mod := some modId }) rfl rfl (fun _ => rfl) k)
  exact ⟨_, hmod, rfl, rfl, rfl, rfl⟩

/-- The end of CONFIG: COMMIT of a legal staged configuration (R130). -/
theorem run_commit {s : State} {n nc cp : Word} {m : Modulation} {g : Staged} {rest : List HostAction} (hp : s.port = .idle)
    (hs : s.script = issueInstr .commit :: rest) (hg : s.staged = g.withLink n nc cp m.ident) (hpos : 1 ≤ nc.toNat)
    (hle : nc.toNat ≤ n.toNat) :
    ∃ t : State, Host.Core.run core 2 s = .next t ∧ t.port = .idle ∧ t.script = rest ∧ t.err = s.err ∧
      ∃ a, t.active = some a ∧ a.nfft = n ∧ a.nc = nc ∧ a.cplen = cp ∧ a.mod = m ∧ a.scfdm = g.scfdm := by
  obtain ⟨hn, hnc, hcp, hm, hscfdm⟩ : s.staged.nfft = some n ∧ s.staged.nc = some nc ∧ s.staged.cplen = some cp ∧
      s.staged.mod = some m.ident ∧ s.staged.scfdm = g.scfdm := by simp [hg, Staged.withLink]
  exact ⟨_, run_issueInstr hp hs rfl rfl (execCommit_of_legal hn hnc hcp hm hpos hle) 0, rfl, rfl, rfl, _, rfl, rfl, rfl, rfl,
    rfl, hscfdm⟩

/-- Settles O60: four or five writes of staged registers, then COMMIT, each of them two steps. -/
theorem configPseudoInstructionConfigures : Obligations.ConfigPseudoInstructionConfigures := by
  intro s n nc cp m scfdm rest hp hpos hle hs
  cases scfdm with
  | none =>
    obtain ⟨u, hrun, hup, hus, huerr, hg⟩ := run_configWrites hp hs 2
    rw [← huerr]
    exact hrun ▸ run_commit hup hus hg hpos hle
  | some b =>
    obtain ⟨u, hrun, hup, hus, huerr, hg⟩ := run_configWrites hp hs 4
    have hwrite := run_writeCommand (f := fun g => { g with scfdm := b }) hup hus (fun _ => by cases b <;> rfl) 2
    have hg' := congrArg (fun g : Staged => { g with scfdm := b }) hg
    rw [← huerr]
    exact (hrun.trans hwrite) ▸ run_commit (g := { s.staged with scfdm := b }) rfl rfl hg' hpos hle

end Sys2Proof.Machine
end

section
/-! NOP, CLRERR, the errors of COMMIT, and CHSEL (R122, R124, R131, R133, R201). -/

namespace Sys2Proof

/-- R24: the identifiers 0, 1 and 2 name a modulation, and no others. -/
theorem Modulation.ofIdent_eq_none_iff {w : Word} : Modulation.ofIdent w = none ↔ 3 ≤ w.toNat := by
  have hne : Modulation.ofIdent w = none ↔ w ≠ 0 ∧ w ≠ 1 ∧ w ≠ 2 := by
    unfold Modulation.ofIdent
    split_ifs <;> simp_all
  rw [hne]
  bv_omega

end Sys2Proof

namespace Sys2Proof.Machine

/-! ### A command that answers with an error -/

/-- A non-zero code means that the command failed: it raised that error (R262) and did nothing else. -/
theorem exec_next_of_code_ne_zero {i : Instr} {s t : State} {c : Nat} {d : Option Item} (h : exec i s = .next t)
    (hresp : t.responses = s.responses ++ [⟨c, d⟩]) (hc : c ≠ 0) :
    ∃ e, t = s.raise e (wordOf i) ∧ c = errorCode e ∧ d = none := by
  obtain ⟨rfl, -⟩ | ⟨e, rfl⟩ | ⟨r, v, -, rfl⟩ | ⟨u, hu, rfl⟩ := exec_next h
  · simp at hresp
  · obtain ⟨hcode, hdata⟩ : errorCode e = c ∧ none = d := by simpa using hresp
    exact ⟨e, rfl, hcode.symm, hdata.symm⟩
  · obtain ⟨hzero, -⟩ : 0 = c ∧ some v = d := by simpa using hresp
    exact absurd hzero.symm hc
  · obtain ⟨hzero, -⟩ : 0 = c ∧ none = d := by simpa [hu.responses] using hresp
    exact absurd hzero.symm hc

/-- Settles O14: a COMMIT that answers with an error has raised it, and `raise` writes the error record alone. -/
theorem failedCommitChangesNothing : Obligations.FailedCommitChangesNothing := by
  intro s t c h hresp hc
  obtain ⟨e, rfl, -, -⟩ := exec_next_of_code_ne_zero h hresp hc
  exact ⟨rfl, rfl, rfl, rfl, rfl⟩

/-! ### NOP and CLRERR -/

/-- Settles O7: each is `complete`, of the state itself and of the state with its error record cleared. -/
theorem nopAndClrerr : Obligations.NopAndClrerr := fun _ => ⟨rfl, rfl⟩

/-! ### The errors of COMMIT -/

theorem wordOf_commit : wordOf .commit = 0x05000000 := rfl

section commit
variable {s : State}

theorem exec_commit_of_unwritten
    (h : s.staged.nfft = none ∨ s.staged.nc = none ∨ s.staged.cplen = none ∨ s.staged.mod = none) :
    exec .commit s = fail .notConfigured (wordOf .commit) s := by
  simp only [exec, execCommit]
  split
  · simp_all
  · rfl

variable {nfft nc cplen modId : Word} (hnfft : s.staged.nfft = some nfft) (hnc : s.staged.nc = some nc)
  (hcplen : s.staged.cplen = some cplen) (hmod : s.staged.mod = some modId)
include hnfft hnc hcplen hmod

theorem exec_commit_of_unsupported (h : Modulation.ofIdent modId = none) :
    exec .commit s = fail .unsupportedModulation (wordOf .commit) s := by
  simp only [exec, execCommit, hnfft, hnc, hcplen, hmod, h]

theorem exec_commit_of_illegal {m : Modulation} (hm : Modulation.ofIdent modId = some m)
    (h : nfft = 0 ∨ nc = 0 ∨ nfft.toNat < nc.toNat) :
    exec .commit s = fail .configInvariant (wordOf .commit) s := by
  simp only [exec, execCommit, hnfft, hnc, hcplen, hmod, hm, if_pos h]

end commit

/-- Settles O13: each error in its turn, the checks before it passed. -/
theorem commitErrorsInOrder : Obligations.CommitErrorsInOrder := by
  intro s
  rw [← wordOf_commit]
  refine ⟨exec_commit_of_unwritten, fun nfft nc cplen modId hnfft hnc hcplen hmod => ⟨fun hid => ?_, fun hid hbad => ?_⟩⟩
  · exact exec_commit_of_unsupported hnfft hnc hcplen hmod (Modulation.ofIdent_eq_none_iff.mpr hid)
  · obtain ⟨m, hm⟩ : ∃ m, Modulation.ofIdent modId = some m :=
      Option.ne_none_iff_exists'.mp fun hnone => absurd (Modulation.ofIdent_eq_none_iff.mp hnone) (by omega)
    exact exec_commit_of_illegal hnfft hnc hcplen hmod hm hbad

/-! ### CHSEL -/

theorem flagWord_ch : ∀ cfg ch fs prof snr, flagWord cfg true fs prof snr = flagWord cfg ch fs prof snr ||| 2 := by decide

/-- A channel sets `CH_VALID`, bit 1 of `STATUS`, and no other flag (R31). -/
theorem statusWord_of_ch (s : State) {c : Channel} (hc : channelType c ≠ 0) :
    State.statusWord { s with ch := c } = s.statusWord ||| 2 := by
  have hvalid : State.chValid { s with ch := c } = true := by simpa [State.chValid] using hc
  rw [statusWord_eq_flagWord, statusWord_eq_flagWord, hvalid]
  exact flagWord_ch ..

theorem exec_chsel_awgn (s : State) : exec (.chsel 1) s = complete { s with ch := .awgn } := rfl

theorem exec_chsel_multipath {s : State} {f : Scalar} (hf : s.fs = some f) :
    exec (.chsel 2) s = complete { s with chFs := some f, ch := .rayleigh ⟨f, s.profile⟩ } := by
  simp [exec, execChsel, hf]

/-- Settles O36: both channels are valid, and nothing but the channel and, for the second, its rate is written. -/
theorem chselBuildsChannel : Obligations.ChselBuildsChannel := by
  intro s
  refine ⟨⟨_, exec_chsel_awgn s, rfl, ?flagAwgn, rfl⟩,
    fun f hf => ⟨_, exec_chsel_multipath hf, rfl, ?rate, ?flagMultipath, rfl⟩⟩
  case flagAwgn => exact statusWord_of_ch s (c := .awgn) Nat.one_ne_zero
  case rate => rw [State.respond_readReg]; simp only [State.readReg, hf]
  case flagMultipath => exact statusWord_of_ch { s with chFs := some f } (c := .rayleigh ⟨f, s.profile⟩) (Nat.succ_ne_zero 1)

end Sys2Proof.Machine
end

section
/-! The constellation codec over any number system: bits to an index and back, and the nearest entry (R145 to R148, R150). -/

namespace Sys2Proof

/-! ### A chunk and its index -/

theorem msbFirst_succ (n : Nat) (c : Nat → Bit) : msbFirst (n + 1) c = 2 ^ n * (c 0).toNat + msbFirst n fun t => c (t + 1) := by
  rw [msbFirst, Finset.sum_range_succ', Nat.add_comm, Nat.mul_comm (2 ^ n)]
  refine congrArg₂ _ rfl (Finset.sum_congr rfl fun t _ => ?_)
  rw [show n + 1 - 1 - (t + 1) = n - 1 - t by omega]

theorem msbFirst_congr {n : Nat} {c d : Nat → Bit} (h : ∀ t < n, c t = d t) : msbFirst n c = msbFirst n d :=
  Finset.sum_congr rfl fun t ht => by rw [h t (Finset.mem_range.mp ht)]

theorem msbFirst_lt (n : Nat) (c : Nat → Bit) : msbFirst n c < 2 ^ n := by
  induction n generalizing c with
  | zero => simp [msbFirst]
  | succ n ih =>
    have hhead : 2 ^ n * (c 0).toNat ≤ 2 ^ n * 1 := Nat.mul_le_mul_left _ (Bool.toNat_le _)
    have htail := ih fun t => c (t + 1)
    rw [msbFirst_succ, pow_succ]
    omega

/-- Bit `n - 1 - t` of the index is the chunk's bit `t` (R146, R148). -/
theorem testBit_msbFirst {n t : Nat} (c : Nat → Bit) (ht : t < n) : (msbFirst n c).testBit (n - 1 - t) = c t := by
  induction n generalizing c t with
  | zero => omega
  | succ n ih =>
    rw [msbFirst_succ, Nat.testBit_two_pow_mul_add _ (msbFirst_lt ..)]
    cases t with
    | zero => cases c 0 <;> simp
    | succ t =>
      rw [if_pos (by omega), show n + 1 - 1 - (t + 1) = n - 1 - t by omega]
      exact ih _ (by omega)

theorem foldl_bits_eq_msbFirst (c : List Bit) (acc : Nat) :
    c.foldl (fun acc x => 2 * acc + x.toNat) acc = 2 ^ c.length * acc + msbFirst c.length (bitAt c) := by
  induction c generalizing acc with
  | nil => simp [msbFirst]
  | cons x c ih =>
    rw [List.foldl_cons, ih, List.length_cons, msbFirst_succ]
    change _ = 2 ^ (c.length + 1) * acc + (2 ^ c.length * x.toNat + msbFirst c.length (bitAt c))
    ring

theorem toNat_chunkIndex {b : Nat} {c : List Bit} (hc : c.length = b) : (chunkIndex b c).toNat = msbFirst b (bitAt c) := by
  subst hc
  rw [chunkIndex, foldl_bits_eq_msbFirst, BitVec.toNat_ofNat, Nat.mul_zero, Nat.zero_add, Nat.mod_eq_of_lt (msbFirst_lt ..)]

/-- Settles O15: the fold is the sum, and a sum of `bps` bits fits the index. -/
theorem indexIsMostSignificantFirst : Obligations.IndexIsMostSignificantFirst := fun _ _ hc => toNat_chunkIndex hc

theorem indexBits_getElem? {b t : Nat} (i : BitVec b) (ht : t < b) : (indexBits i)[t]? = some (i.toNat.testBit (b - 1 - t)) := by
  simp [indexBits, ht, BitVec.getLsbD]

theorem bitAt_of_lt {l : List Bit} {k : Nat} (h : k < l.length) : l[k]? = some (bitAt l k) := by
  simp [bitAt, h]

theorem indexBits_chunkIndex {b : Nat} {c : List Bit} (hc : c.length = b) : indexBits (chunkIndex b c) = c := by
  refine List.ext_getElem? fun t => ?_
  rcases Nat.lt_or_ge t b with ht | ht
  · rw [indexBits_getElem? _ ht, toNat_chunkIndex hc, testBit_msbFirst _ ht, bitAt_of_lt (by omega)]
  · rw [List.getElem?_eq_none (by rwa [indexBits_length]), List.getElem?_eq_none (by rwa [hc])]

/-! ### The chunks of a sequence -/

theorem bitAt_padBits (n : Nat) (l : List Bit) (k : Nat) : bitAt (padBits n l) k = bitAt l k := by
  simp only [bitAt, padBits, List.getElem?_append, List.getElem?_replicate]
  split_ifs with hk hz
  · rfl
  all_goals simp [List.getElem?_eq_none (Nat.le_of_not_lt hk)]

theorem bitAt_slice (l : List Bit) {w s t : Nat} (ht : t < w) : bitAt (slice l w s) t = bitAt l (s * w + t) := by
  rw [bitAt, slice_getElem?, if_pos ht, bitAt]

theorem flatMap_slice {α : Type} (l : List α) (w n : Nat) : (List.range n).flatMap (slice l w) = l.take (n * w) := by
  induction n with
  | zero => simp
  | succ n ih =>
    rw [List.range_succ, List.flatMap_append, ih, Nat.succ_mul, List.take_add]
    simp [slice]

/-- Element `j·k + t` of pieces of one length `k` joined is element `t` of piece `j`. -/
theorem getElem?_flatMap_of_length {α β : Type*} {l : List α} {f : α → List β} {j k t : Nat} {x : α}
    (hf : ∀ y, (f y).length = k) (hj : l[j]? = some x) (ht : t < k) : (l.flatMap f)[j * k + t]? = (f x)[t]? := by
  induction l generalizing j with
  | nil => simp at hj
  | cons y l ih =>
    rw [List.flatMap_cons]
    cases j with
    | zero =>
      obtain rfl : y = x := by simpa using hj
      rw [Nat.zero_mul, Nat.zero_add, List.getElem?_append_left (by rwa [hf])]
    | succ j =>
      rw [List.getElem?_append_right (by rw [hf, Nat.succ_mul]; omega), hf,
        show (j + 1) * k + t - k = j * k + t by rw [Nat.succ_mul]; omega]
      exact ih (by simpa using hj)

section table
variable {K : Type} {b : Nat} (num : NumSys K) (rom : Vector (Cplx K) (2 ^ b))

theorem slice_padBits_length (hb : 0 < b) (l : List Bit) {j : Nat} (hj : j < ceilDiv l.length b) :
    (slice (padBits (ceilDiv l.length b * b) l) b j).length = b := by
  refine slice_length_of_le ?_
  rw [padBits_length (le_ceilDiv_mul _ hb)]
  exact Nat.mul_le_mul_right b hj

/-- Symbol `j` of ENC is the entry at the index that the bits from `j·b` on spell, zeros past the end (R145, R146). -/
theorem encodeBits_getElem? (hb : 0 < b) (l : List Bit) {j : Nat} (hj : j < ceilDiv l.length b) :
    ∃ i : BitVec b, i.toNat = msbFirst b (fun t => bitAt l (j * b + t)) ∧ (encodeBits rom l)[j]? = some (romAt rom i) := by
  refine ⟨_, ?_, mapChunks_getElem? rom _ _ hj⟩
  rw [toNat_chunkIndex (slice_padBits_length hb l hj)]
  exact msbFirst_congr fun t ht => by rw [bitAt_slice _ ht, bitAt_padBits]

/-- Bit `j·b + t` of DEC is bit `b - 1 - t` of the nearest index of symbol `j` (R148). -/
theorem decodeSymbols_getElem? {r : List (Cplx K)} {z : Cplx K} {j t : Nat} (hj : r[j]? = some z) (ht : t < b) :
    (decodeSymbols num rom r)[j * b + t]? = some ((nearest num rom z).toNat.testBit (b - 1 - t)) := by
  rw [decodeSymbols, getElem?_flatMap_of_length (fun _ => indexBits_length _) hj ht, indexBits_getElem? _ ht]

/-! ### The search for the nearest entry -/

/-- The squared distance of `r` to entry `k` of a table. -/
def entryDist (r : Cplx K) (k : Nat) : K := num.distSq r (romAt rom (BitVec.ofNat b k))

variable {num rom}

/-- What a comparison of the next index with the best so far keeps, the search keeps. -/
theorem nearestFrom_keeps {r : Cplx K} {point : Nat → Cplx K} {P : Nat → Nat → Prop} (n : Nat) {i best : Nat}
    (hstep : ∀ k < i + n, ∀ best < k, P k best →
      P (k + 1) (if num.lt (num.distSq r (point k)) (num.distSq r (point best)) then k else best))
    (hbest : best < i) (h : P i best) :
    let j := nearestFrom num r ((List.range' i n).map point) i best (num.distSq r (point best))
    j < i + n ∧ P (i + n) j := by
  induction n generalizing i best with
  | zero => exact ⟨hbest, h⟩
  | succ n ih =>
    have hnext := hstep i (by omega) best hbest h
    rw [show i + (n + 1) = i + 1 + n by omega] at hstep ⊢
    simp only [List.range'_succ, List.map_cons, nearestFrom]
    split_ifs at hnext ⊢
    · exact ih hstep (by omega) hnext
    · exact ih hstep (by omega) hnext

theorem toList_eq_map_romAt : rom.toList = (List.range' 0 (2 ^ b)).map fun k => romAt rom (BitVec.ofNat b k) := by
  refine List.ext_getElem (by simp) fun k hk _ => ?_
  have hlt : k < 2 ^ b := by simpa using hk
  simp [romAt, Nat.mod_eq_of_lt hlt]

theorem nearest_eq_nearestFrom (r : Cplx K) :
    nearest num rom r = BitVec.ofNat b (nearestFrom num r
      ((List.range' 1 (2 ^ b - 1)).map fun k => romAt rom (BitVec.ofNat b k)) 1 0 (entryDist num rom r 0)) := by
  have hcons : List.range' 0 (2 ^ b) = 0 :: List.range' 1 (2 ^ b - 1) := by
    rw [← Nat.sub_add_cancel (Nat.one_le_two_pow (n := b)), List.range'_succ, Nat.add_sub_cancel]
  rw [nearest, toList_eq_map_romAt, hcons]
  rfl

/-- Index 0 is the best of the first entry; what each comparison keeps holds of the nearest index at the end. -/
theorem nearest_keeps {r : Cplx K} {P : Nat → Nat → Prop} (h0 : P 1 0)
    (hstep : ∀ k < 2 ^ b, ∀ best < k, P k best →
      P (k + 1) (if num.lt (entryDist num rom r k) (entryDist num rom r best) then k else best)) :
    P (2 ^ b) (nearest num rom r).toNat := by
  have hn : 1 + (2 ^ b - 1) = 2 ^ b := Nat.add_sub_cancel' Nat.one_le_two_pow
  obtain ⟨hlt, hP⟩ := nearestFrom_keeps (num := num) (r := r) (point := fun k => romAt rom (BitVec.ofNat b k)) (2 ^ b - 1)
    (by rwa [hn]) Nat.one_pos h0
  rw [hn] at hlt hP
  rw [nearest_eq_nearestFrom, BitVec.toNat_ofNat, entryDist, Nat.mod_eq_of_lt hlt]
  exact hP

/-- Of the distances `d 0 .. d (n-1)`, index `j` is the first that no other is below (R147). -/
def FirstMin (num : NumSys K) (d : Nat → K) (n j : Nat) : Prop :=
  ∀ k < n, num.lt (d k) (d j) = false ∧ (k < j → num.lt (d j) (d k) = true)

theorem FirstMin.unique {d : Nat → K} {n i j : Nat} (hi : FirstMin num d n i) (hj : FirstMin num d n j) (hin : i < n)
    (hjn : j < n) : i = j := by
  rcases Nat.lt_trichotomy i j with h | h | h
  · simpa [(hi j hjn).1] using (hj i hin).2 h
  · exact h
  · simpa [(hj i hin).1] using (hi j hjn).2 h

theorem FirstMin.next {d : Nat → K} {k best : Nat} (ho : num.Ordered) (h : FirstMin num d k best) (hbest : best < k) :
    FirstMin num d (k + 1) (if num.lt (d k) (d best) then k else best) := by
  obtain ⟨hirrefl, htrans, hneg⟩ := ho
  intro i hi
  split_ifs with hlt
  · obtain rfl | hik := Nat.eq_or_lt_of_le (Nat.le_of_lt_succ hi)
    · exact ⟨hirrefl _, fun hii => absurd hii (Nat.lt_irrefl _)⟩
    · obtain ⟨hle, -⟩ := h i hik
      refine ⟨Bool.eq_false_iff.mpr fun hc => ?_, fun _ => ?_⟩
      · simp [htrans _ _ _ hc hlt] at hle
      · by_contra hc
        simp [hneg _ _ _ (Bool.eq_false_iff.mpr hc) hle] at hlt
  · obtain rfl | hik := Nat.eq_or_lt_of_le (Nat.le_of_lt_succ hi)
    · exact ⟨by simpa using hlt, fun hc => absurd hc (Nat.lt_asymm hbest)⟩
    · exact h i hik

theorem nearest_firstMin (ho : num.Ordered) (r : Cplx K) :
    FirstMin num (entryDist num rom r) (2 ^ b) (nearest num rom r).toNat := by
  refine nearest_keeps (P := FirstMin num (entryDist num rom r)) (fun k hk => ?_) fun k _ best hbest h => h.next ho hbest
  obtain rfl : k = 0 := Nat.lt_one_iff.mp hk
  exact ⟨ho.1 _, fun hc => absurd hc (Nat.lt_irrefl _)⟩

theorem entryDist_toNat (r : Cplx K) (i : BitVec b) : entryDist num rom r i.toNat = num.distSq r (romAt rom i) := by
  rw [entryDist, BitVec.ofNat_toNat, BitVec.setWidth_eq]

/-- R147 on an entry of the table: it is its own nearest. -/
theorem nearest_romAt (hsep : Separates num rom) (i : BitVec b) : nearest num rom (romAt rom i) = i := by
  have hkeeps := nearest_keeps (num := num) (rom := rom) (r := romAt rom i)
    (P := fun k best => i.toNat < k → best = i.toNat) (fun hi => by omega) fun k hk best hbest ih hi => ?_
  · exact BitVec.eq_of_toNat_eq (hkeeps i.isLt)
  have hother {k : Nat} (hk : k < 2 ^ b) (hne : k ≠ i.toNat) : i ≠ BitVec.ofNat b k := by
    rintro rfl
    simp [Nat.mod_eq_of_lt hk] at hne
  obtain rfl | hik := Nat.eq_or_lt_of_le (Nat.le_of_lt_succ hi)
  · obtain ⟨hnearer, -⟩ := hsep i _ (hother (hbest.trans hk) hbest.ne)
    rw [entryDist_toNat, entryDist, if_pos hnearer]
  · obtain ⟨-, hfarther⟩ := hsep i _ (hother hk hik.ne')
    rw [ih hik, entryDist_toNat, entryDist, hfarther]
    rfl

/-- R150: the symbols of whole chunks decode to the chunks. -/
theorem decodeSymbols_mapChunks (hsep : Separates num rom) {n : Nat} {l : List Bit} (hl : l.length = n * b) :
    decodeSymbols num rom (mapChunks rom n l) = l := by
  have hchunk : ∀ s ∈ List.range n, indexBits (nearest num rom (romAt rom (chunkIndex b (slice l b s)))) = slice l b s := by
    intro s hs
    rw [nearest_romAt hsep, indexBits_chunkIndex]
    exact slice_length_of_le (hl ▸ Nat.mul_le_mul_right b (List.mem_range.mp hs))
  rw [decodeSymbols, mapChunks, List.flatMap_map, List.flatMap_congr hchunk, flatMap_slice, ← hl, List.take_length]

end table

/-- Settles O18: the search keeps the first minimum of the entries it has seen. -/
theorem nearestIsFirstMinimum : Obligations.NearestIsFirstMinimum := by
  intro K num b rom r ho j
  have h := nearest_firstMin (rom := rom) ho r j.toNat j.isLt
  rwa [entryDist_toNat, entryDist_toNat] at h

end Sys2Proof
end

section
/-! The codec on the exact point sets: their entries are told apart, and the nearest one has a closed form (R149, R150). -/

namespace Sys2Proof

/-! ### The entries are told apart -/

theorem romAt_points {K : Type} (num : NumSys K) (m : Modulation) (e : Equiv.Perm (Fin (2 ^ m.bps))) (i : BitVec m.bps) :
    romAt (points num m e) i = scalePoint num m (gridPoint m (e i.toFin)) := by
  simp [romAt, points]

theorem distSq_exact (r p : Cplx ℝ) : NumSys.exact.distSq r p = (r.re - p.re) ^ 2 + (r.im - p.im) ^ 2 := by
  simp only [NumSys.distSq, NumSys.normSq, NumSys.exact]
  ring

theorem NumSys.exact_cscale_pos (m : Modulation) : 0 < NumSys.exact.cscale m :=
  one_div_pos.mpr (Real.sqrt_pos.mpr (gridEnergy_pos m))

theorem gridPoint_injective (m : Modulation) : Function.Injective (gridPoint m) := by
  intro i j h
  obtain ⟨hI, hQ⟩ := Prod.mk.inj h
  rw [← Nat.div_add_mod i m.side, ← Nat.div_add_mod j m.side, show i / m.side = j / m.side by omega,
    show i % m.side = j % m.side by omega]

theorem scalePoint_exact_injective (m : Modulation) : Function.Injective (scalePoint NumSys.exact m) := by
  intro g g' h
  obtain ⟨hI, hQ⟩ := Cplx.mk.inj h
  have hscale := (NumSys.exact_cscale_pos m).ne'
  simp only [NumSys.exact_mul, NumSys.exact_ofInt, mul_eq_mul_left_iff, hscale, or_false, Int.cast_inj] at hI hQ
  exact Prod.ext hI hQ

theorem distSq_exact_pos {p q : Cplx ℝ} (h : p ≠ q) : 0 < NumSys.exact.distSq p q := by
  rw [distSq_exact]
  by_cases hre : p.re = q.re
  · have him : p.im ≠ q.im := fun him => h (congrArg₂ Cplx.mk hre him)
    exact add_pos_of_nonneg_of_pos (sq_nonneg _) (sq_pos_of_ne_zero (sub_ne_zero.mpr him))
  · exact add_pos_of_pos_of_nonneg (sq_pos_of_ne_zero (sub_ne_zero.mpr hre)) (sq_nonneg _)

theorem separates_points_exact (m : Modulation) (e : Equiv.Perm (Fin (2 ^ m.bps))) :
    Separates NumSys.exact (points NumSys.exact m e) := by
  have hzero : NumSys.exact.zero = 0 := Nat.cast_zero
  refine separates_of_positive NumSys.exact_ordered (fun i => by simp [distSq_exact, hzero]) fun i j hij => ?_
  have hne : romAt (points NumSys.exact m e) i ≠ romAt (points NumSys.exact m e) j := by
    rw [romAt_points, romAt_points]
    intro h
    have := e.injective (Fin.ext (gridPoint_injective m (scalePoint_exact_injective m h)))
    exact hij (BitVec.toFin_inj.mp this)
  rw [hzero]
  exact decide_eq_true (distSq_exact_pos hne)

/-- Settles O21: an entry is its own nearest, so each chunk comes back as the bits of its index. -/
theorem codecRoundTrip : Obligations.CodecRoundTrip :=
  ⟨fun _ _ _ _ hb hsep bits => decodeSymbols_mapChunks hsep (padBits_length (le_ceilDiv_mul bits.length hb)),
    separates_points_exact⟩

/-! ### The closed form of the nearest index -/

theorem Modulation.side_pos (m : Modulation) : 0 < m.side := by cases m <;> decide

theorem exists_slicerLevel_eq {L : ℕ} (hL : 0 < L) (z : ℝ) : ∃ j < L, slicerLevel L z = (j : ℕ) := by
  obtain ⟨j, hj⟩ : ∃ j : ℕ, slicerLevel L z = j := Int.eq_ofNat_of_zero_le (by unfold slicerLevel; omega)
  refine ⟨j, ?_, hj⟩
  unfold slicerLevel at hj
  omega

/-- The squared distance of `z` to level `j` of the `L` levels of an axis (R11). -/
def levelDist (L : ℕ) (z : ℝ) (j : ℕ) : ℝ := (z - (2 * j - (L - 1))) ^ 2

theorem levelDist_sub (L : ℕ) (z : ℝ) (u j : ℕ) :
    levelDist L z u - levelDist L z j = 4 * ((j - u) * (z + L - 1 - u - j)) := by
  simp only [levelDist]
  ring

/-- R149: the slicer's level is the first of least distance; a midpoint goes to the lower level. -/
theorem levelDist_slicerLevel {L j u : ℕ} {z : ℝ} (hj : slicerLevel L z = j) (hu : u < L) :
    levelDist L z j ≤ levelDist L z u ∧ (u < j → levelDist L z j < levelDist L z u) := by
  have hlo := Int.ceil_lt_add_one ((z + L - 1) / 2 - 1 / 2)
  have hhi := Int.le_ceil ((z + L - 1) / 2 - 1 / 2)
  unfold slicerLevel at hj
  generalize ⌈(z + L - 1) / 2 - 1 / 2⌉ = c at hlo hhi hj
  have hsub := levelDist_sub L z u j
  rcases Nat.lt_trichotomy u j with h | rfl | h
  · have hstep : (u : ℝ) + 1 ≤ j := by exact_mod_cast h
    have hjc : (j : ℝ) ≤ c := by exact_mod_cast (show (j : ℤ) ≤ c by omega)
    have hpos : 0 < (j - u : ℝ) * (z + L - 1 - u - j) := mul_pos (by linarith) (by linarith)
    exact ⟨by linarith, fun _ => by linarith⟩
  · exact ⟨le_rfl, fun h => absurd h (Nat.lt_irrefl _)⟩
  · have hstep : (j : ℝ) + 1 ≤ u := by exact_mod_cast h
    have hcj : (c : ℝ) ≤ j := by exact_mod_cast (show c ≤ (j : ℤ) by omega)
    have hnonneg : 0 ≤ (j - u : ℝ) * (z + L - 1 - u - j) := mul_nonneg_of_nonpos_of_nonpos (by linarith) (by linarith)
    exact ⟨by linarith, fun hc => absurd hc (Nat.lt_asymm h)⟩

/-- Under the default enumeration the distance to an entry is the sum of the distances on the two axes, scaled (R143, R149). -/
theorem entryDist_points_exact (m : Modulation) (r : Cplx ℝ) {k : ℕ} (hk : k < 2 ^ m.bps) :
    entryDist NumSys.exact (points NumSys.exact m (Equiv.refl _)) r k = NumSys.exact.cscale m ^ 2 *
      (levelDist m.side (r.re / NumSys.exact.cscale m) (k / m.side) +
        levelDist m.side (r.im / NumSys.exact.cscale m) (k % m.side)) := by
  have hscale := (NumSys.exact_cscale_pos m).ne'
  rw [entryDist, romAt_points, distSq_exact]
  simp only [scalePoint, gridPoint, NumSys.exact_mul, NumSys.exact_ofInt, levelDist, Equiv.refl_apply, BitVec.toFin_ofNat,
    Fin.val_ofNat, Nat.mod_eq_of_lt hk, Int.cast_sub, Int.cast_mul, Int.cast_natCast, Int.cast_ofNat, Int.cast_one]
  field_simp

/-- In row-major order an earlier index has an earlier row, or the same row and an earlier column. -/
theorem row_lt_or_column_lt {L u v k : ℕ} (hv : v < L) (hk : k < L * u + v) : k / L < u ∨ k / L = u ∧ k % L < v := by
  have hle : k / L ≤ u := by
    have := Nat.div_le_div_right (c := L) hk.le
    rwa [Nat.mul_add_div (by omega), Nat.div_eq_of_lt hv, Nat.add_zero] at this
  refine (Nat.lt_or_eq_of_le hle).imp_right fun h => ⟨h, ?_⟩
  have := Nat.div_add_mod k L
  rw [h] at this
  omega

theorem index_lt_size (m : Modulation) {u v : ℕ} (hu : u < m.side) (hv : v < m.side) : m.side * u + v < 2 ^ m.bps := by
  calc m.side * u + v < m.side * (u + 1) := by rw [Nat.mul_succ]; omega
    _ ≤ m.side * m.side := Nat.mul_le_mul_left _ hu
    _ = 2 ^ m.bps := m.size_eq.symm

/-- The first minimum on each axis gives the first minimum of their sum, in row-major order (R149). -/
theorem slicers_firstMin (m : Modulation) (r : Cplx ℝ) {u v : ℕ} (hu : u < m.side) (hv : v < m.side)
    (hI : slicerLevel m.side (r.re / NumSys.exact.cscale m) = u) (hQ : slicerLevel m.side (r.im / NumSys.exact.cscale m) = v) :
    FirstMin NumSys.exact (entryDist NumSys.exact (points NumSys.exact m (Equiv.refl _)) r) (2 ^ m.bps) (m.side * u + v) := by
  intro k hk
  obtain ⟨hrow, hrow'⟩ := levelDist_slicerLevel hI (Nat.div_lt_of_lt_mul (by rwa [← m.size_eq]) : k / m.side < m.side)
  obtain ⟨hcolumn, hcolumn'⟩ := levelDist_slicerLevel hQ (Nat.mod_lt k m.side_pos)
  have hscale : 0 < NumSys.exact.cscale m ^ 2 := pow_pos (NumSys.exact_cscale_pos m) 2
  rw [entryDist_points_exact m r hk, entryDist_points_exact m r (index_lt_size m hu hv), Nat.mul_add_div m.side_pos,
    Nat.div_eq_of_lt hv, Nat.add_zero, Nat.mul_add_mod, Nat.mod_eq_of_lt hv]
  refine ⟨decide_eq_false (not_lt.mpr (mul_le_mul_of_nonneg_left (add_le_add hrow hcolumn) hscale.le)), fun hlt => ?_⟩
  refine decide_eq_true (mul_lt_mul_of_pos_left ?_ hscale)
  obtain h | ⟨-, h⟩ := row_lt_or_column_lt hv hlt
  · exact add_lt_add_of_lt_of_le (hrow' h) hcolumn
  · exact add_lt_add_of_le_of_lt hrow (hcolumn' h)

/-- Settles O19: a first minimum is unique, and each axis' slicer finds the first minimum on its axis. -/
theorem nearestSlicesEachAxis : Obligations.NearestSlicesEachAxis := by
  intro m r
  obtain ⟨u, hu, hI⟩ := exists_slicerLevel_eq m.side_pos (r.re / NumSys.exact.cscale m)
  obtain ⟨v, hv, hQ⟩ := exists_slicerLevel_eq m.side_pos (r.im / NumSys.exact.cscale m)
  have hnearest := (nearest_firstMin NumSys.exact_ordered r).unique (slicers_firstMin m r hu hv hI hQ) (BitVec.isLt _)
    (index_lt_size m hu hv)
  rw [hI, hQ, hnearest]
  norm_cast

end Sys2Proof
end

section
/-! The codec's commands, and the datapath commands whose needed state is unwritten (R140, R145, R148). -/

namespace Sys2Proof.Machine

/-- Settles O16: the symbols are `encodeBits` of the bits popped, entry by entry. -/
theorem encMapsChunks : Obligations.EncMapsChunks := by
  intro s a n ha hn
  have hbits : (s.bi.take n.toNat).length = n.toNat := List.length_take_of_le hn
  refine ⟨encodeBits a.rom (s.bi.take n.toNat), ?_, by rw [encodeBits_length, hbits], fun j hj => ?_⟩
  · exact (needConfig_some ha).trans (popBits_of_le hn)
  · exact encodeBits_getElem? a.rom a.mod.bps_pos _ (by rwa [← encodeBits_length a.rom])

/-- Settles O17: the bits are `decodeSymbols` of the symbols popped, bit by bit. -/
theorem decEmitsNearestIndex : Obligations.DecEmitsNearestIndex := by
  intro s a n ha hn
  refine ⟨decodeSymbols Config.num a.rom (s.ci.take n.toNat), ?_, ?_, fun j r hj hr t ht => ?_⟩
  · exact (needConfig_some ha).trans (popSamples_of_le hn)
  · rw [decodeSymbols_length, List.length_take_of_le hn]
  · exact decodeSymbols_getElem? _ _ (by rwa [List.getElem?_take_of_lt hj]) ht

/-! ### Commands whose needed state is unwritten -/

/-- R140, R160, R180, R230: without an active configuration. -/
theorem exec_of_unconfigured {s : State} {n : BitVec 24} (h : s.active = none) :
    ∀ i ∈ [Instr.enc n, .dec n, .modsym, .modstr n, .demsym n, .demstr n, .det n],
      exec i s = fail .notConfigured (wordOf i) s := by
  intro i hi
  fin_cases hi <;> exact needConfig_none h

theorem fadingSetup_eq_none {s : State} (h : (∀ f, s.ch ≠ .rayleigh f) ∨ s.profile = none) : fadingSetup s = none := by
  refine Option.eq_none_iff_forall_not_mem.mpr fun ⟨p, r⟩ hset => ?_
  obtain ⟨⟨f, hf⟩, hp, -⟩ := fadingSetup_eq_some.mp hset
  obtain h | h := h
  · exact h f hf
  · simp [h] at hp

/-- R208: without a fading filter or a profile. -/
theorem exec_fade_of_no_setup {s : State} (n : BitVec 24) (h : fadingSetup s = none) :
    exec (.fade n) s = fail .notConfigured (wordOf (.fade n)) s := by
  simp only [exec, execFade, h]

/-- R212: without a channel or an SNR. -/
theorem exec_noise_of_unset {s : State} (n : BitVec 24) (h : s.ch = .none ∨ s.snrLin = none) :
    exec (.noise n) s = fail .notConfigured (wordOf (.noise n)) s := by
  simp only [exec, execNoise]
  split <;> simp_all

/-- R216: without a channel or an SNR. -/
theorem exec_chtx_of_unset {s : State} (n : BitVec 24) (h : s.ch = .none ∨ s.snrLin = none) :
    exec (.chtx n) s = fail .notConfigured (wordOf (.chtx n)) s := by
  simp only [exec, execChtx]
  split <;> simp_all

/-- R216: a multipath channel without a profile. -/
theorem exec_chtx_of_no_setup {s : State} (n : BitVec 24) {f : Filter} (hch : s.ch = .rayleigh f) (h : fadingSetup s = none) :
    exec (.chtx n) s = fail .notConfigured (wordOf (.chtx n)) s := by
  cases hsnr : s.snrLin with
  | none => exact exec_chtx_of_unset n (.inr hsnr)
  | some snr => simp only [exec, execChtx, hch, hsnr, h]

/-- Settles O48: each check of R140, R160, R180, R208, R212, R216 and R230 fails before the input is looked at. -/
theorem unconfiguredCommandsFail : Obligations.UnconfiguredCommandsFail := by
  intro s n
  simp only [State.cfgValid, State.profValid, State.snrValid, Option.isSome_eq_false_iff, Option.isNone_iff_eq_none]
  refine ⟨exec_of_unconfigured, fun h => exec_fade_of_no_setup n (fadingSetup_eq_none h), fun h => ?_, fun f hch hp => ?_⟩
  · exact List.forall_mem_cons.mpr ⟨exec_noise_of_unset n h, List.forall_mem_singleton.mpr (exec_chtx_of_unset n h)⟩
  · exact exec_chtx_of_no_setup n hch (fadingSetup_eq_none (.inr hp))

end Sys2Proof.Machine
end

section
/-! The OFDM modulator over any number system: one OFDM symbol stage by stage, and a stream of bits as a sequence of OFDM symbols
(R161 to R170). -/

namespace Sys2Proof.Machine

/-! ### Pieces of a sequence -/

theorem slice_zero {α : Type} (l : List α) (w : Nat) : slice l w 0 = l.take w := by simp [slice]

theorem slice_drop {α : Type} (l : List α) (w s : Nat) : slice (l.drop w) w s = slice l w (s + 1) := by
  rw [slice, slice, List.drop_drop, Nat.succ_mul, Nat.add_comm]

/-- Piece `j` of pieces of one length `k` joined. -/
theorem slice_flatMap_of_length {α β : Type} {l : List α} {f : α → List β} {j k : Nat} {x : α}
    (hf : ∀ y, (f y).length = k) (hj : l[j]? = some x) : slice (l.flatMap f) k j = f x := by
  refine List.ext_getElem? fun t => ?_
  rw [slice_getElem?]
  split_ifs with ht
  · exact getElem?_flatMap_of_length hf hj ht
  · rw [List.getElem?_eq_none (by rw [hf]; omega)]

theorem eq_map_bitAt {l : List Bit} {n : Nat} (hl : l.length = n) : l = (List.range n).map (bitAt l) := by
  subst hl
  refine List.ext_getElem (by simp) fun t ht _ => ?_
  simp [bitAt, ht]

theorem ceilDiv_eq_one {n b : Nat} (hn : 0 < n) (hb : n ≤ b) : ceilDiv n b = 1 := by
  have hle {k : Nat} : ceilDiv n b ≤ k ↔ n ≤ k * b := ceilDiv_le_iff (hn.trans_le hb)
  have hone : ceilDiv n b ≤ 1 := hle.mpr (by omega)
  have hzero : ¬ ceilDiv n b ≤ 0 := hle.not.mpr (by omega)
  omega

variable {K : Type} (num : NumSys K) (a : Active K)

theorem Active.bpo_pos {a : Active K} (hnc : 1 ≤ a.nc.toNat) : 0 < a.bpo := Nat.mul_pos hnc a.mod.bps_pos

/-! ### The stages of one OFDM symbol -/

theorem ofdmMod_obuf_length (hnc : a.nc.toNat ≤ a.nfft.toNat) (hcp : a.cplen.toNat ≤ a.nfft.toNat) (b : List Bit) :
    (ofdmMod num a b).obuf.length = a.spo := by
  obtain ⟨-, -, -, ho⟩ := ofdmMod_lengths num a b hnc hcp
  exact ho

/-- R162: symbol `j` before precoding is the entry at the index that chunk `j` spells. -/
theorem symbolStage_getElem? {b : List Bit} (hb : b.length = a.bpo) {j : Nat} (hj : j < a.nc.toNat) :
    ∃ i : BitVec a.mod.bps, i.toNat = msbFirst a.mod.bps (fun t => bitAt b (j * a.mod.bps + t)) ∧
      (symbolStage a b)[j]? = some (romAt a.rom i) := by
  have hchunk : (slice b a.mod.bps j).length = a.mod.bps :=
    slice_length_of_le (hb ▸ Nat.mul_le_mul_right a.mod.bps (Nat.succ_le_of_lt hj))
  refine ⟨_, ?_, mapChunks_getElem? a.rom _ b hj⟩
  rw [toNat_chunkIndex hchunk]
  exact msbFirst_congr fun t ht => bitAt_slice b ht

/-- R165: bins 0 .. Nc-1 hold the symbols, the others zero. -/
theorem mapBins_getElem? {d : List (Cplx K)} (hd : d.length = a.nc.toNat) {k : Nat} (hk : k < a.nfft.toNat) :
    (mapBins num a d)[k]? = if k < a.nc.toNat then d[k]? else some ⟨num.ofNat 0, num.ofNat 0⟩ := by
  rw [mapBins, List.getElem?_append, hd]
  split_ifs
  · rfl
  · rw [NumSys.zeros, List.getElem?_replicate_of_lt (by omega)]
    rfl

theorem insertPrefix_getElem?_front {t : List (Cplx K)} (ht : t.length = a.nfft.toNat) (hcp : a.cplen.toNat ≤ a.nfft.toNat)
    {q : Nat} (hq : q < a.cplen.toNat) : (insertPrefix a t)[q]? = t[a.nfft.toNat - a.cplen.toNat + q]? := by
  rw [insertPrefix, List.getElem?_append_left (by rw [List.length_drop]; omega), List.getElem?_drop]

theorem insertPrefix_getElem?_core {t : List (Cplx K)} (ht : t.length = a.nfft.toNat) (hcp : a.cplen.toNat ≤ a.nfft.toNat)
    (m : Nat) : (insertPrefix a t)[a.cplen.toNat + m]? = t[m]? := by
  have hlen : (t.drop (a.nfft.toNat - a.cplen.toNat)).length = a.cplen.toNat := by rw [List.length_drop]; omega
  rw [insertPrefix, List.getElem?_append_right (by omega), hlen, Nat.add_sub_cancel_left]

/-- Settles O24: the element law of each stage, at the lengths of `ofdmMod_lengths`. -/
theorem ofdmModStages : Obligations.OfdmModStages := by
  intro K num a b hb hnc hcp
  obtain ⟨hd, hf, ht, ho⟩ := ofdmMod_lengths num a b hnc hcp.le
  refine ⟨rfl, hd, hf, ht, ho, ⟨symbolStage a b, mapChunks_length .., ?symbols, ?plain, ?precoded⟩, ?bins, rfl, ?front, ?core⟩
  case symbols => exact fun j hj => symbolStage_getElem? a hb hj
  case plain => exact fun hoff => by simp [ofdmMod, precode, hoff]
  case precoded => exact fun hon => by simp [ofdmMod, precode, hon]
  case bins => exact fun k hk => mapBins_getElem? num a hd hk
  case front => exact fun q hq => insertPrefix_getElem?_front a ht hcp.le hq
  case core => exact fun m _ => insertPrefix_getElem?_core a ht hcp.le m

/-! ### A stream of bits -/

/-- The bits of OFDM symbol `i` of a stream: `BPO` of them, zeros past the end (R170). -/
def bitGroup (b : List Bit) (i : Nat) : List Bit := slice (padBits (ceilDiv b.length a.bpo * a.bpo) b) a.bpo i

theorem bitGroup_eq_map_bitAt {a : Active K} (hbpo : 0 < a.bpo) (b : List Bit) {i : Nat} (hi : i < ceilDiv b.length a.bpo) :
    bitGroup a b i = (List.range a.bpo).map fun u => bitAt b (i * a.bpo + u) := by
  rw [bitGroup, eq_map_bitAt (slice_padBits_length hbpo b hi)]
  exact List.map_congr_left fun u hu => by rw [bitAt_slice _ (List.mem_range.mp hu), bitAt_padBits]

theorem modStream_eq_flatMap_bitGroup (b : List Bit) :
    modStream num a b =
      (List.range (ceilDiv b.length a.bpo)).flatMap fun i => (ofdmMod num a (bitGroup a b i)).obuf :=
  List.flatMap_map ..

/-- The samples of OFDM symbol `i` of a stream (R170). -/
theorem slice_modStream (hnc : a.nc.toNat ≤ a.nfft.toNat) (hcp : a.cplen.toNat ≤ a.nfft.toNat) (b : List Bit) {i : Nat}
    (hi : i < ceilDiv b.length a.bpo) :
    slice (modStream num a b) a.spo i = (ofdmMod num a (bitGroup a b i)).obuf := by
  rw [modStream_eq_flatMap_bitGroup]
  exact slice_flatMap_of_length (fun _ => ofdmMod_obuf_length num a hnc hcp _) (List.getElem?_range hi)

theorem modStream_getElem? (hnc : a.nc.toNat ≤ a.nfft.toNat) (hcp : a.cplen.toNat ≤ a.nfft.toNat) (b : List Bit) {i r : Nat}
    (hi : i < ceilDiv b.length a.bpo) (hr : r < a.spo) :
    (modStream num a b)[i * a.spo + r]? = (ofdmMod num a (bitGroup a b i)).obuf[r]? := by
  rw [← slice_modStream num a hnc hcp b hi, slice_getElem?, if_pos hr]

/-- R170: exactly one symbol's bits are one group. -/
theorem modSymbols_eq_singleton {a : Active K} (hbpo : 0 < a.bpo) {b : List Bit} (hb : b.length = a.bpo) :
    modSymbols num a b = [ofdmMod num a b] := by
  rw [modSymbols, hb, ceilDiv_eq_one hbpo le_rfl, Nat.one_mul, ← hb, padBits_self]
  simp [slice_zero]

/-- R186: at most one symbol's samples are one chunk. -/
theorem demChunks_eq_singleton {x : List (Cplx K)} (hpos : 0 < x.length) (hx : x.length ≤ a.spo) :
    demChunks num a x = [ofdmDemod num a x] := by
  rw [demChunks, ceilDiv_eq_one hpos hx]
  simp [slice_zero, List.take_of_length_le hx]

/-! ### The copied samples in front -/

/-- R168 for one OFDM symbol: what stands in front is a copy of the core block's end. -/
theorem obuf_getElem?_front (b : List Bit) (hnc : a.nc.toNat ≤ a.nfft.toNat) (hcp : a.cplen.toNat ≤ a.nfft.toNat) {q : Nat}
    (hq : q < a.cplen.toNat) : (ofdmMod num a b).obuf[q]? = (ofdmMod num a b).obuf[a.nfft.toNat + q]? := by
  obtain ⟨-, -, ht, -⟩ := ofdmMod_lengths num a b hnc hcp
  have hcore := insertPrefix_getElem?_core a ht hcp (a.nfft.toNat - a.cplen.toNat + q)
  rw [show a.cplen.toNat + (a.nfft.toNat - a.cplen.toNat + q) = a.nfft.toNat + q by omega] at hcore
  exact (insertPrefix_getElem?_front a ht hcp hq).trans hcore.symm

/-- Settles O25: the law of one OFDM symbol, at each symbol's place in the stream. -/
theorem cyclicPrefixLaw : Obligations.CyclicPrefixLaw := by
  intro K num a b hnc hcp
  refine ⟨fun q hq => obuf_getElem?_front num a b hnc hcp.le hq, fun i q hi hq => ⟨?_, ?_⟩⟩
  · rw [modStream_getElem? num a hnc hcp.le b hi (by unfold Active.spo; omega),
      modStream_getElem? num a hnc hcp.le b hi (by unfold Active.spo; omega)]
    exact obuf_getElem?_front num a _ hnc hcp.le hq
  · calc i * a.spo + (a.nfft.toNat + q) < (i + 1) * a.spo := by rw [Nat.succ_mul]; unfold Active.spo; omega
      _ ≤ ceilDiv b.length a.bpo * a.spo := Nat.mul_le_mul_right _ hi
      _ = (modStream num a b).length := (length_flatMap_modSymbols num a b hnc hcp.le).symm

end Sys2Proof.Machine
end

section
/-! The modulator's commands: MODSYM, MODSTR, and one as the other (R163, R170, R171, R182). -/

namespace Sys2Proof.Machine

section commands
variable {s : State} {a : Active Scalar}

/-- MODSYM whose checks pass and whose bits are there (R163). -/
theorem exec_modsym_of_le (ha : s.active = some a) (hcp : a.cplen.toNat < a.nfft.toNat) (hlen : a.bpo ≤ s.bi.length) :
    exec .modsym s =
      complete (State.emitSymbols [ofdmMod Config.num a (s.bi.take a.bpo)] { s with bi := s.bi.drop a.bpo }) :=
  (needConfig_some ha).trans <| (needPrefix_of_lt hcp).trans <| popBits_of_le hlen

/-- MODSTR whose checks pass and whose bits are there (R170). -/
theorem exec_modstr_of_le {n : BitVec 24} (ha : s.active = some a) (hcp : a.cplen.toNat < a.nfft.toNat)
    (hlen : n.toNat ≤ s.bi.length) :
    exec (.modstr n) s =
      complete (State.emitSymbols (modSymbols Config.num a (s.bi.take n.toNat)) { s with bi := s.bi.drop n.toNat }) :=
  (needConfig_some ha).trans <| (needPrefix_of_lt hcp).trans <| popBits_of_le hlen

end commands

/-- Settles O22: the list of OFDM symbols is the one symbol, the last one too. -/
theorem modsymModulatesOneSymbol : Obligations.ModsymModulatesOneSymbol := by
  intro s a ha hcp hlen
  refine (exec_modsym_of_le ha hcp hlen).trans ?_
  simp only [State.emitSymbols, List.flatMap_singleton]
  rfl

/-- Settles O23: the samples are `modStream` of the bits popped, slice by slice. -/
theorem modstrModulatesStream : Obligations.ModstrModulatesStream := by
  intro s a n ha hpos hnc hcp hn
  have hbits : (s.bi.take n.toNat).length = n.toNat := List.length_take_of_le hn
  have hsymbols : (modSymbols Config.num a (s.bi.take n.toNat)).length = ceilDiv n.toNat a.bpo := by
    rw [modSymbols_length, hbits]
  refine ⟨modStream Config.num a (s.bi.take n.toNat), Buffers.afterMod (modSymbols Config.num a (s.bi.take n.toNat)) s.buf,
    ?_, ?_, ?_, fun i hi => ?_⟩
  · rw [exec_modstr_of_le ha hcp hn, ← hsymbols]
    rfl
  · exact (length_flatMap_modSymbols Config.num a _ hnc hcp.le).trans (by rw [hbits])
  · rintro rfl
    have hnil : modSymbols Config.num a (s.bi.take (0 : BitVec 24).toNat) = [] :=
      List.length_eq_zero_iff.mp (hsymbols.trans (ceilDiv_zero (Active.bpo_pos hpos)))
    rw [hnil]
    rfl
  · have hi' : i < ceilDiv (s.bi.take n.toNat).length a.bpo := by rwa [hbits]
    rw [slice_modStream Config.num a hnc hcp.le _ hi', bitGroup_eq_map_bitAt (Active.bpo_pos hpos) _ hi']

/-! ### The symbol commands and the stream commands -/

/-- R163 (b): the two commands make the same checks, and hold or make the same OFDM symbol. -/
theorem exec_modsym_eq_modstr {s : State} {a : Active Scalar} {n : BitVec 24} (ha : s.active = some a)
    (hpos : 1 ≤ a.nc.toNat) (hn : n.toNat = a.bpo) : exec .modsym s = exec (.modstr n) s := by
  refine (needConfig_some ha).trans (Eq.trans ?_ (needConfig_some ha).symm)
  rw [hn]
  rcases Nat.lt_or_ge s.bi.length a.bpo with hshort | hlen
  · rw [popBits_of_lt hshort, popBits_of_lt hshort]
  · rw [popBits_of_le hlen, popBits_of_le hlen,
      modSymbols_eq_singleton Config.num (Active.bpo_pos hpos) (List.length_take_of_le hlen)]

/-- R182 (d): the same for the demodulator's commands, where the count of one chunk passes DEMSYM's check. -/
theorem exec_demsym_eq_demstr {s : State} {a : Active Scalar} {n : BitVec 24} (ha : s.active = some a)
    (hpos : 0 < n.toNat) (hn : n.toNat ≤ a.spo) : exec (.demsym n) s = exec (.demstr n) s := by
  refine (needConfig_some ha).trans ((if_neg (Nat.not_lt.mpr hn)).trans (Eq.trans ?_ (needConfig_some ha).symm))
  rcases Nat.lt_or_ge s.ci.length n.toNat with hshort | hlen
  · rw [popSamples_of_lt hshort, popSamples_of_lt hshort]
  · have hx : (s.ci.take n.toNat).length = n.toNat := List.length_take_of_le hlen
    rw [popSamples_of_le hlen, popSamples_of_le hlen,
      demChunks_eq_singleton Config.num a (hpos.trans_eq hx.symm) (hx.trans_le hn)]

/-- Settles O26: R163 (b) for MODSYM, R182 (d) for DEMSYM. -/
theorem symbolCommandsAreStreamCommands : Obligations.SymbolCommandsAreStreamCommands :=
  fun _ _ _ ha hpos => ⟨exec_modsym_eq_modstr ha hpos, exec_demsym_eq_demstr ha⟩

/-- R171: `k` MODSYM commands on the bits of `k` OFDM symbols make the symbols of the successive groups. -/
theorem repeatExec_modsym {a : Active Scalar} (hcp : a.cplen.toNat < a.nfft.toNat) (k : Nat) {s : State}
    (ha : s.active = some a) (hlen : s.bi.length = k * a.bpo) :
    ∃ t, repeatExec .modsym k s = .next t ∧ t.bi = [] ∧
      t.co = s.co ++ (List.range k).flatMap fun i => (ofdmMod Config.num a (slice s.bi a.bpo i)).obuf := by
  induction k generalizing s with
  | zero => exact ⟨s, rfl, List.length_eq_zero_iff.mp (by simpa using hlen), by simp⟩
  | succ k ih =>
    rw [Nat.succ_mul] at hlen
    obtain ⟨t, ht, hbi, hco⟩ :=
      ih (s := (State.emitSymbols [ofdmMod Config.num a (s.bi.take a.bpo)] { s with bi := s.bi.drop a.bpo }).respond 0 none)
        ha (by simp [hlen])
    refine ⟨t, ?_, hbi, ?_⟩
    · rw [repeatExec, exec_modsym_of_le ha hcp (by omega)]
      exact ht
    · simp [hco, List.range_succ_eq_map, List.flatMap_map, slice_zero, slice_drop]

/-- Settles O27: both outputs are the OFDM symbols of the groups of the padded bits. -/
theorem modstrIsModsymRepeated : Obligations.ModstrIsModsymRepeated := by
  intro s a n ha hpos hcp hn
  have hbits : (s.bi.take n.toNat).length = n.toNat := List.length_take_of_le hn
  have hpad : s.bi.take n.toNat ++ List.replicate (ceilDiv n.toNat a.bpo * a.bpo - n.toNat) false =
      padBits (ceilDiv n.toNat a.bpo * a.bpo) (s.bi.take n.toNat) := by rw [padBits, hbits]
  have hlen : (padBits (ceilDiv n.toNat a.bpo * a.bpo) (s.bi.take n.toNat)).length = ceilDiv n.toNat a.bpo * a.bpo :=
    padBits_length (hbits.trans_le (le_ceilDiv_mul _ (Active.bpo_pos hpos)))
  obtain ⟨t, ht, hbi, hco⟩ := repeatExec_modsym hcp (ceilDiv n.toNat a.bpo)
    (s := { s with bi := padBits (ceilDiv n.toNat a.bpo * a.bpo) (s.bi.take n.toNat) }) ha hlen
  rw [hpad]
  refine ⟨t, _, ht, exec_modstr_of_le ha hcp hn, ?_, hbi, rfl⟩
  rw [hco]
  exact congrArg (s.co ++ ·) ((modStream_eq_flatMap_bitGroup ..).trans (by simp only [bitGroup, hbits])).symm

end Sys2Proof.Machine
end

section
/-! The exact modulator: the full band under SC-FDM (R175), and the peak-to-average power ratio (R169, R172, R173). -/

namespace Sys2Proof

open Machine

/-! ### The exact transforms on lists -/

theorem NumSys.inverse_of_length {K : Type} (num : NumSys K) {n : Nat} {l : List (Cplx K)} (h : l.length = n) :
    num.inverse l = (num.uidft n ⟨l.toArray, by simpa⟩).toList := by
  subst h
  rfl

theorem NumSys.exact_inverse_forward (l : List (Cplx ℝ)) : NumSys.exact.inverse (NumSys.exact.forward l) = l := by
  rw [NumSys.inverse_of_length _ (NumSys.forward_length _ l)]
  have h := exactTransform_neg_exactTransform (sign := -1) (.inr rfl) (⟨l.toArray, rfl⟩ : Vector (Cplx ℝ) l.length)
  rw [neg_neg] at h
  exact congrArg Vector.toList h

theorem energy_exact_forward (l : List (Cplx ℝ)) : energy (NumSys.exact.forward l) = energy l :=
  energy_exactTransform (.inr rfl) _

theorem energy_exact_inverse (l : List (Cplx ℝ)) : energy (NumSys.exact.inverse l) = energy l :=
  energy_exactTransform (.inl rfl) _

/-- Settles O28: with no empty bin the inverse transform undoes the precoding. -/
theorem scfdmFullBandIsIdentity : Obligations.ScfdmFullBandIsIdentity := by
  intro a b hon hband _
  simp only [ofdmMod, precode, mapBins, hon, hband, if_true, Nat.sub_self, NumSys.zeros,
    List.replicate_zero, List.append_nil, NumSys.exact_inverse_forward, symbolStage]

/-! ### Power -/

theorem magSq_nonneg (z : Cplx ℝ) : 0 ≤ magSq z := add_nonneg (sq_nonneg _) (sq_nonneg _)

theorem energy_nonneg (l : List (Cplx ℝ)) : 0 ≤ energy l :=
  List.sum_nonneg <| List.forall_mem_map.mpr fun z _ => magSq_nonneg z

theorem energy_append (l m : List (Cplx ℝ)) : energy (l ++ m) = energy l + energy m := by simp [energy]

theorem energy_pos {l : List (Cplx ℝ)} (hne : l ≠ []) (h : ∀ z ∈ l, 0 < magSq z) : 0 < energy l :=
  List.sum_pos _ (List.forall_mem_map.mpr h) (by simpa)

theorem meanMagSq_ne_zero_iff {o : List (Cplx ℝ)} : meanMagSq o ≠ 0 ↔ 0 < energy o := by
  refine ⟨fun h => (energy_nonneg o).lt_of_ne' fun h0 => h (by simp [meanMagSq, h0]), fun h => ?_⟩
  have hne : o ≠ [] := by rintro rfl; simp [energy] at h
  exact div_ne_zero h.ne' (by simpa)

/-- The greatest squared magnitude of a sequence, the numerator of the PAPR (R172). -/
noncomputable def peakMagSq (o : List (Cplx ℝ)) : ℝ := (o.map magSq).foldr max 0

theorem papr_of_ne_zero {o : List (Cplx ℝ)} (h : meanMagSq o ≠ 0) : papr o = some (peakMagSq o / meanMagSq o) := if_neg h

theorem magSq_le_peakMagSq {o : List (Cplx ℝ)} {z : Cplx ℝ} (hz : z ∈ o) : magSq z ≤ peakMagSq o :=
  List.le_max_of_le' 0 (List.mem_map_of_mem hz) le_rfl

theorem exists_magSq_eq_peakMagSq {o : List (Cplx ℝ)} (ho : o ≠ []) : ∃ z ∈ o, magSq z = peakMagSq o := by
  induction o with
  | nil => exact absurd rfl ho
  | cons x o ih =>
    have hcons : peakMagSq (x :: o) = max (magSq x) (peakMagSq o) := rfl
    rcases le_total (peakMagSq o) (magSq x) with h | h
    · exact ⟨x, List.mem_cons_self, by rw [hcons, max_eq_left h]⟩
    · by_cases hnil : o = []
      · subst hnil
        exact ⟨x, List.mem_cons_self, (max_eq_left (magSq_nonneg x)).symm⟩
      · obtain ⟨z, hz, hpeak⟩ := ih hnil
        exact ⟨z, List.mem_cons_of_mem x hz, by rw [hpeak, hcons, max_eq_right h]⟩

theorem energy_le_length_mul_peakMagSq (o : List (Cplx ℝ)) : energy o ≤ o.length * peakMagSq o := by
  simpa [energy] using
    List.sum_le_card_nsmul (o.map magSq) (peakMagSq o) (List.forall_mem_map.mpr fun _ => magSq_le_peakMagSq)

/-- The energy reaches its bound exactly when every sample has the peak's magnitude. -/
theorem energy_eq_length_mul_peakMagSq_iff {o : List (Cplx ℝ)} :
    energy o = o.length * peakMagSq o ↔ ∀ z ∈ o, magSq z = peakMagSq o := by
  have hconst : (o.map fun _ => peakMagSq o).sum = o.length * peakMagSq o := by simp
  refine ⟨fun h z hz => ?_, fun h => ?_⟩
  · refine (magSq_le_peakMagSq hz).eq_of_not_lt fun hlt => ?_
    have hsum := List.sum_lt_sum magSq (fun _ => peakMagSq o) (fun _ => magSq_le_peakMagSq) ⟨z, hz, hlt⟩
    exact hsum.ne (h.trans hconst.symm)
  · rw [← hconst, energy, List.map_congr_left h]

theorem forall_magSq_eq_peakMagSq_iff {o : List (Cplx ℝ)} (ho : o ≠ []) :
    (∀ z ∈ o, magSq z = peakMagSq o) ↔ ∀ x ∈ o, ∀ y ∈ o, magSq x = magSq y := by
  obtain ⟨z, hz, hpeak⟩ := exists_magSq_eq_peakMagSq ho
  exact ⟨fun h x hx y hy => (h x hx).trans (h y hy).symm, fun h x hx => (h x hx z hz).trans hpeak⟩

theorem inDecibels_nonneg_iff {r : ℝ} (hr : 0 < r) : 0 ≤ inDecibels r ↔ 1 ≤ r := by
  rw [inDecibels, mul_nonneg_iff_of_pos_left (by norm_num), Real.logb_nonneg_iff (by norm_num) hr]

/-- R172, R173: the peak is at least the mean, and is the mean exactly when all samples have the same magnitude. -/
theorem papr_bounds {o : List (Cplx ℝ)} (h : meanMagSq o ≠ 0) :
    1 ≤ peakMagSq o / meanMagSq o ∧ (peakMagSq o / meanMagSq o = 1 ↔ ∀ x ∈ o, ∀ y ∈ o, magSq x = magSq y) := by
  have hpos : 0 < energy o := meanMagSq_ne_zero_iff.mp h
  have hne : o ≠ [] := by rintro rfl; simp [energy] at hpos
  have hratio : peakMagSq o / meanMagSq o = o.length * peakMagSq o / energy o := by
    rw [meanMagSq, div_div_eq_mul_div, mul_comm]
  rw [hratio, one_le_div hpos, div_eq_one_iff_eq hpos.ne', eq_comm, energy_eq_length_mul_peakMagSq_iff,
    forall_magSq_eq_peakMagSq_iff hne]
  exact ⟨energy_le_length_mul_peakMagSq o, Iff.rfl⟩

/-! ### The power of an OFDM symbol -/

theorem energy_exact_zeros (n : Nat) : energy (NumSys.exact.zeros n) = 0 := by
  simp [energy, NumSys.zeros, NumSys.zeroSample, NumSys.zero, NumSys.exact, magSq]

theorem energy_exact_precode (a : Active ℝ) (d : List (Cplx ℝ)) :
    energy (precode NumSys.exact a d) = energy d := by
  unfold precode
  split
  · exact energy_exact_forward d
  · rfl

/-- R169: the core block has the energy of the constellation symbols, since the transforms keep it and the other bins are zero. -/
theorem energy_exact_tbuf (a : Active ℝ) (b : List Bit) :
    energy (ofdmMod NumSys.exact a b).tbuf = energy (symbolStage a b) := by
  simp only [ofdmMod, mapBins, energy_exact_inverse, energy_append, energy_exact_zeros, energy_exact_precode,
    add_zero]

theorem magSq_pos_of_mem_points {m : Modulation} {e : Equiv.Perm (Fin (2 ^ m.bps))} {p : Cplx ℝ}
    (hp : p ∈ (points NumSys.exact m e).toList) : 0 < magSq p := by
  obtain ⟨hlo, -⟩ := magSq_bounds_of_mem_points hp
  exact (mul_pos two_pos (pow_pos (NumSys.exact_cscale_pos m) 2)).trans_le hlo

theorem energy_symbolStage_pos {a : Active ℝ} {e : Equiv.Perm (Fin (2 ^ a.mod.bps))} (b : List Bit)
    (hpos : 1 ≤ a.nc.toNat) (hrom : a.rom = points NumSys.exact a.mod e) : 0 < energy (symbolStage a b) := by
  refine energy_pos (List.ne_nil_of_length_pos ((mapChunks_length ..).symm ▸ hpos)) fun z hz => ?_
  obtain ⟨j, -, rfl⟩ := List.mem_map.mp hz
  have hentries : ∀ p ∈ a.rom.toList, 0 < magSq p := hrom ▸ fun _ => magSq_pos_of_mem_points
  exact hentries _ (by simp [romAt])

/-- Settles O29: the peak bounds every sample's power, and an OFDM symbol has at least the energy of its constellation symbols. -/
theorem paprAtLeastOne : Obligations.PaprAtLeastOne := by
  refine ⟨fun o h => ?_, fun a e b hpos _ _ hrom => meanMagSq_ne_zero_iff.mpr ?_⟩
  · obtain ⟨hone, heq⟩ := papr_bounds h
    have hdb := inDecibels_nonneg_iff (one_pos.trans_le hone)
    exact ⟨_, papr_of_ne_zero h, hone, hdb.mpr hone, hdb.symm, heq⟩
  · have htbuf : 0 < energy (ofdmMod NumSys.exact a b).tbuf :=
      energy_exact_tbuf a b ▸ energy_symbolStage_pos b hpos hrom
    exact (add_pos_of_nonneg_of_pos (energy_nonneg _) htbuf).trans_eq (energy_append ..).symm

end Sys2Proof
end

section
/-! The OFDM demodulator over any number system: one sample chunk stage by stage, and a stream of samples as a sequence of chunks
(R181 to R186). -/

namespace Sys2Proof.Machine

variable {K : Type} (num : NumSys K) (a : Active K)

theorem Active.spo_pos {a : Active K} (hcp : a.cplen.toNat < a.nfft.toNat) : 0 < a.spo :=
  Nat.add_pos_left (Nat.zero_lt_of_lt hcp) _

/-! ### The stages of one sample chunk -/

/-- R183: a chunk of at most SPO samples, then zero samples. -/
theorem padChunk_getElem? {x : List (Cplx K)} {q : Nat} (hq : q < a.spo) :
    (padChunk num a x)[q]? = if q < x.length then x[q]? else some ⟨num.ofNat 0, num.ofNat 0⟩ := by
  rw [padChunk, List.getElem?_append]
  split_ifs
  · rfl
  · rw [NumSys.zeros, List.getElem?_replicate_of_lt (by omega)]
    rfl

/-- R183: sample `m` of the core block stands cp samples further on. -/
theorem stripPrefix_getElem? (o : List (Cplx K)) {m : Nat} (hm : m < a.nfft.toNat) :
    (stripPrefix a o)[m]? = o[a.cplen.toNat + m]? := by
  rw [stripPrefix, List.getElem?_take_of_lt hm, List.getElem?_drop]

/-- Settles O32: the element law of each stage, at the lengths of `ofdmDemod_lengths`. -/
theorem ofdmDemodStages : Obligations.OfdmDemodStages := by
  intro K num a x hx hnc
  obtain ⟨ho, ht, -, hd⟩ := ofdmDemod_lengths num a x hnc hx
  refine ⟨ho, hd, ?padded, ?core, ht, rfl, ?plain, ?decoded⟩
  case padded => exact fun q hq => padChunk_getElem? num a hq
  case core => exact fun m hm => stripPrefix_getElem? a _ hm
  case plain =>
    intro hoff k hk
    simp [ofdmDemod, deprecode, hoff, hk]
  case decoded => exact fun hon => by simp [ofdmDemod, deprecode, hon]

/-! ### A stream of samples -/

theorem ofdmDemod_slice_dbuf_length (hnc : a.nc.toNat ≤ a.nfft.toNat) (x : List (Cplx K)) (i : Nat) :
    (ofdmDemod num a (slice x a.spo i)).dbuf.length = a.nc.toNat := by
  obtain ⟨-, -, -, hd⟩ := ofdmDemod_lengths num a (slice x a.spo i) hnc (List.length_take_le ..)
  exact hd

theorem demStream_eq_flatMap_slice (x : List (Cplx K)) :
    demStream num a x =
      (List.range (ceilDiv x.length a.spo)).flatMap fun i => (ofdmDemod num a (slice x a.spo i)).dbuf :=
  List.flatMap_map ..

/-- The symbols of chunk `i` of a stream (R186). -/
theorem slice_demStream (hnc : a.nc.toNat ≤ a.nfft.toNat) (x : List (Cplx K)) {i : Nat} (hi : i < ceilDiv x.length a.spo) :
    slice (demStream num a x) a.nc.toNat i = (ofdmDemod num a (slice x a.spo i)).dbuf := by
  rw [demStream_eq_flatMap_slice]
  exact slice_flatMap_of_length (ofdmDemod_slice_dbuf_length num a hnc x) (List.getElem?_range hi)

end Sys2Proof.Machine
end

section
/-! The demodulator's commands: DEMSYM and DEMSTR (R182, R186). -/

namespace Sys2Proof.Machine

section commands
variable {s : State} {a : Active Scalar} {n : BitVec 24}

/-- DEMSYM whose checks pass and whose samples are there (R182). -/
theorem exec_demsym_of_le (ha : s.active = some a) (hspo : n.toNat ≤ a.spo) (hcp : a.cplen.toNat < a.nfft.toNat)
    (hlen : n.toNat ≤ s.ci.length) :
    exec (.demsym n) s =
      complete (State.emitChunks [ofdmDemod Config.num a (s.ci.take n.toNat)] { s with ci := s.ci.drop n.toNat }) :=
  (needConfig_some ha).trans <| (if_neg (Nat.not_lt.mpr hspo)).trans <| (needPrefix_of_lt hcp).trans <|
    popSamples_of_le hlen

/-- DEMSYM of more samples than one chunk has fails before cp and `CI` are looked at (R182; log 9). -/
theorem exec_demsym_of_spo_lt (ha : s.active = some a) (hspo : a.spo < n.toNat) :
    exec (.demsym n) s = fail .illegalCommand (wordOf (.demsym n)) s :=
  (needConfig_some ha).trans (if_pos hspo)

/-- DEMSTR whose checks pass and whose samples are there (R186). -/
theorem exec_demstr_of_le (ha : s.active = some a) (hcp : a.cplen.toNat < a.nfft.toNat) (hlen : n.toNat ≤ s.ci.length) :
    exec (.demstr n) s =
      complete (State.emitChunks (demChunks Config.num a (s.ci.take n.toNat)) { s with ci := s.ci.drop n.toNat }) :=
  (needConfig_some ha).trans <| (needPrefix_of_lt hcp).trans <| popSamples_of_le hlen

end commands

/-- Settles O30: the list of chunks is the one chunk, the last one too. -/
theorem demsymDemodulatesOneChunk : Obligations.DemsymDemodulatesOneChunk := by
  refine fun s a n ha => ⟨fun hspo hcp hlen => ?_, exec_demsym_of_spo_lt ha⟩
  refine (exec_demsym_of_le ha hspo hcp hlen).trans ?_
  simp only [State.emitChunks, List.flatMap_singleton]
  rfl

/-- R181: the walk of the demodulator stops before `BBUF` (log 13). -/
theorem Buffers.afterDem_bbuf (l : List (DemStages Scalar)) (b : Buffers) : (Buffers.afterDem l b).bbuf = b.bbuf := by
  unfold Buffers.afterDem
  split <;> rfl

/-- Settles O31: the symbols are `demStream` of the samples popped, slice by slice. -/
theorem demstrDemodulatesStream : Obligations.DemstrDemodulatesStream := by
  intro s a n ha hnc hcp hn
  have hx : (s.ci.take n.toNat).length = n.toNat := List.length_take_of_le hn
  have hchunks : (demChunks Config.num a (s.ci.take n.toNat)).length = ceilDiv n.toNat a.spo := by
    rw [demChunks_length, hx]
  refine ⟨demStream Config.num a (s.ci.take n.toNat), Buffers.afterDem (demChunks Config.num a (s.ci.take n.toNat)) s.buf,
    ?_, ?_, ?_, Buffers.afterDem_bbuf .., fun i hi => ?_⟩
  · rw [exec_demstr_of_le ha hcp hn, ← hchunks]
    rfl
  · exact (length_flatMap_demChunks Config.num a _ hnc).trans (by rw [hx])
  · rintro rfl
    have hnil : demChunks Config.num a (s.ci.take (0 : BitVec 24).toNat) = [] :=
      List.length_eq_zero_iff.mp (hchunks.trans (ceilDiv_zero (Active.spo_pos hcp)))
    rw [hnil]
    rfl
  · exact slice_demStream Config.num a hnc _ (by rwa [hx])

end Sys2Proof.Machine
end

section
/-! The exact demodulator: it undoes the modulator (R188), and it is additive (R190). -/

namespace Sys2Proof

open Machine

/-! ### Chunks of chunks -/

theorem ceilDiv_mul_self (k : Nat) {b : Nat} (hb : 0 < b) : ceilDiv (k * b) b = k :=
  Nat.le_antisymm ((ceilDiv_le_iff hb).mpr le_rfl) (Nat.le_of_mul_le_mul_right (le_ceilDiv_mul (k * b) hb) hb)

/-- Piece `s` of width `w` of a piece of `n` such pieces. -/
theorem slice_slice {α : Type} (l : List α) (w i : Nat) {n s : Nat} (hs : s < n) :
    slice (slice l (n * w) i) w s = slice l w (i * n + s) := by
  have hend : (s + 1) * w ≤ n * w := Nat.mul_le_mul_right w hs
  refine List.ext_getElem? fun t => ?_
  simp only [slice_getElem?]
  split_ifs with ht hin
  · congr 1
    ring
  · exact absurd (show s * w + t < n * w by rw [Nat.succ_mul] at hend; omega) hin
  · rfl

/-- The symbols of the groups of a sequence are the symbols of the sequence (R145, R170). -/
theorem mapChunks_slice {K : Type} {b : Nat} (rom : Vector (Cplx K) (2 ^ b)) (l : List Bit) {i k : Nat} (n : Nat) (hi : i < k) :
    mapChunks rom n (slice l (n * b) i) = slice (mapChunks rom (k * n) l) n i := by
  have hend : (i + 1) * n ≤ k * n := Nat.mul_le_mul_right n hi
  refine List.ext_getElem? fun s => ?_
  rw [slice_getElem?]
  split_ifs with hs
  · rw [mapChunks_getElem? rom _ _ hs, mapChunks_getElem? rom _ _ (by rw [Nat.succ_mul] at hend; omega), slice_slice l b i hs]
  · exact List.getElem?_eq_none (by rw [mapChunks_length]; omega)

/-! ### The exact transforms on lists, for either sign -/

/-- The transform of a list of samples by the sum of R12 and R13. -/
noncomputable def exactTransformList (sign : ℝ) (l : List (Cplx ℝ)) : List (Cplx ℝ) :=
  (exactTransform sign l.length ⟨l.toArray, rfl⟩).toList

theorem NumSys.exact_forward_eq : NumSys.exact.forward = exactTransformList (-1) := rfl

theorem NumSys.exact_inverse_eq : NumSys.exact.inverse = exactTransformList 1 := rfl

theorem exactTransformList_toList (sign : ℝ) {n : ℕ} (v : Vector (Cplx ℝ) n) :
    exactTransformList sign v.toList = (exactTransform sign n v).toList := by
  obtain ⟨v, rfl⟩ := v
  rfl

theorem exists_vector_toList_eq {α : Type} {l : List α} {n : ℕ} (h : l.length = n) : ∃ v : Vector α n, v.toList = l :=
  ⟨⟨l.toArray, h⟩, rfl⟩

theorem NumSys.exact_forward_inverse (l : List (Cplx ℝ)) : NumSys.exact.forward (NumSys.exact.inverse l) = l := by
  obtain ⟨v, hv⟩ := exists_vector_toList_eq (rfl : l.length = l.length)
  rw [NumSys.exact_inverse_eq, NumSys.exact_forward_eq, ← hv, exactTransformList_toList, exactTransformList_toList,
    exactTransform_neg_exactTransform (.inl rfl)]

theorem complexVec_zipWith_addSample {n : ℕ} (v w : Vector (Cplx ℝ) n) :
    complexVec (Vector.zipWith NumSys.exact.addSample v w) = complexVec v + complexVec w := by
  ext i
  simp [complexVec, NumSys.addSample, NumSys.exact, Cplx.toComplex, Complex.ext_iff]

theorem exactTransform_zipWith_addSample (sign : ℝ) {n : ℕ} (v w : Vector (Cplx ℝ) n) :
    exactTransform sign n (Vector.zipWith NumSys.exact.addSample v w) =
      Vector.zipWith NumSys.exact.addSample (exactTransform sign n v) (exactTransform sign n w) :=
  complexVec_injective <| by
    simp only [complexVec_exactTransform, complexVec_zipWith_addSample, Matrix.mulVec_add]

theorem exactTransformList_zipWith_addSample (sign : ℝ) {x w : List (Cplx ℝ)} (h : x.length = w.length) :
    exactTransformList sign (List.zipWith NumSys.exact.addSample x w) =
      List.zipWith NumSys.exact.addSample (exactTransformList sign x) (exactTransformList sign w) := by
  generalize hw : w.length = n at h
  obtain ⟨v, rfl⟩ := exists_vector_toList_eq h
  obtain ⟨u, rfl⟩ := exists_vector_toList_eq hw
  rw [← Vector.toList_zipWith, exactTransformList_toList, exactTransformList_toList, exactTransformList_toList,
    exactTransform_zipWith_addSample, Vector.toList_zipWith]

/-! ### Each stage of the demodulator undoes one of the modulator -/

section stages
variable {K : Type} (num : NumSys K) {a : Active K}

theorem padChunk_of_length {o : List (Cplx K)} (ho : o.length = a.spo) : padChunk num a o = o := by
  simp [padChunk, ho, NumSys.zeros]

theorem stripPrefix_insertPrefix {t : List (Cplx K)} (ht : t.length = a.nfft.toNat) (hcp : a.cplen.toNat ≤ a.nfft.toNat) :
    stripPrefix a (insertPrefix a t) = t := by
  have hlen : (t.drop (a.nfft.toNat - a.cplen.toNat)).length = a.cplen.toNat := by rw [List.length_drop]; omega
  rw [stripPrefix, insertPrefix, List.drop_left' hlen, List.take_of_length_le ht.le]

theorem take_mapBins {d : List (Cplx K)} (hd : d.length = a.nc.toNat) : (mapBins num a d).take a.nc.toNat = d :=
  List.take_left' hd

/-- R166, R183: the demodulator's core block is the modulator's, in every number system. -/
theorem ofdmDemod_ofdmMod_tbuf (hnc : a.nc.toNat ≤ a.nfft.toNat) (hcp : a.cplen.toNat ≤ a.nfft.toNat) (b : List Bit) :
    (ofdmDemod num a (ofdmMod num a b).obuf).tbuf = (ofdmMod num a b).tbuf := by
  obtain ⟨-, -, ht, ho⟩ := ofdmMod_lengths num a b hnc hcp
  exact (congrArg (stripPrefix a) (padChunk_of_length num ho)).trans (stripPrefix_insertPrefix ht hcp)

theorem ofdmDemod_dbuf (c : List (Cplx K)) :
    (ofdmDemod num a c).dbuf = deprecode num a ((ofdmDemod num a c).fbuf.take a.nc.toNat) := rfl

end stages

theorem deprecode_precode_exact (a : Active ℝ) (d : List (Cplx ℝ)) :
    deprecode NumSys.exact a (precode NumSys.exact a d) = d := by
  unfold deprecode precode
  split
  · exact NumSys.exact_inverse_forward d
  · rfl

/-- R188 for one OFDM symbol. -/
theorem ofdmDemod_ofdmMod_exact {a : Active ℝ} (hnc : a.nc.toNat ≤ a.nfft.toNat) (hcp : a.cplen.toNat ≤ a.nfft.toNat)
    (b : List Bit) : (ofdmDemod NumSys.exact a (ofdmMod NumSys.exact a b).obuf).dbuf = symbolStage a b := by
  obtain ⟨hd, -, -, -⟩ := ofdmMod_lengths NumSys.exact a b hnc hcp
  have hbins : (ofdmDemod NumSys.exact a (ofdmMod NumSys.exact a b).obuf).fbuf =
      mapBins NumSys.exact a (ofdmMod NumSys.exact a b).dbuf :=
    (congrArg NumSys.exact.forward (ofdmDemod_ofdmMod_tbuf NumSys.exact hnc hcp b)).trans (NumSys.exact_forward_inverse _)
  rw [ofdmDemod_dbuf, hbins, take_mapBins NumSys.exact hd]
  exact deprecode_precode_exact a _

/-! ### A stream through both -/

/-- R188: the symbols of the bit groups of a stream are the symbols of its padded bits. -/
theorem flatMap_symbolStage_bitGroup {K : Type} (a : Active K) (b : List Bit) :
    ((List.range (ceilDiv b.length a.bpo)).flatMap fun i => symbolStage a (bitGroup a b i)) =
      mapChunks a.rom (ceilDiv b.length a.bpo * a.nc.toNat) (padBits (ceilDiv b.length a.bpo * a.bpo) b) := by
  have hgroup : ∀ i ∈ List.range (ceilDiv b.length a.bpo), symbolStage a (bitGroup a b i) =
      slice (mapChunks a.rom (ceilDiv b.length a.bpo * a.nc.toNat) (padBits (ceilDiv b.length a.bpo * a.bpo) b)) a.nc.toNat i :=
    fun i hi => mapChunks_slice a.rom _ a.nc.toNat (List.mem_range.mp hi)
  rw [List.flatMap_congr hgroup, flatMap_slice, List.take_of_length_le (mapChunks_length ..).le]

theorem demStream_modStream_exact {a : Active ℝ} (hnc : a.nc.toNat ≤ a.nfft.toNat) (hcp : a.cplen.toNat < a.nfft.toNat)
    (b : List Bit) :
    demStream NumSys.exact a (modStream NumSys.exact a b) =
      (List.range (ceilDiv b.length a.bpo)).flatMap fun i => symbolStage a (bitGroup a b i) := by
  have hcount : ceilDiv (modStream NumSys.exact a b).length a.spo = ceilDiv b.length a.bpo :=
    (congrArg (ceilDiv · a.spo) (length_flatMap_modSymbols NumSys.exact a b hnc hcp.le)).trans
      (ceilDiv_mul_self _ (Active.spo_pos hcp))
  rw [demStream_eq_flatMap_slice, hcount]
  refine List.flatMap_congr fun i hi => ?_
  rw [slice_modStream NumSys.exact a hnc hcp.le b (List.mem_range.mp hi), ofdmDemod_ofdmMod_exact hnc hcp.le]

/-- Settles O34: chunk by chunk the demodulator undoes the modulator, and then the codec's round trip applies. -/
theorem linkRoundTrip : Obligations.LinkRoundTrip := by
  intro a e b hpos hnc hcp
  have hsymbols := (demStream_modStream_exact hnc hcp b).trans (flatMap_symbolStage_bitGroup a b)
  refine ⟨hsymbols, fun hrom => ?_⟩
  rw [hsymbols]
  refine decodeSymbols_mapChunks (hrom ▸ separates_points_exact a.mod e) ?_
  rw [padBits_length (le_ceilDiv_mul _ (Active.bpo_pos hpos)), Active.bpo, Nat.mul_assoc]

/-! ### The demodulator on a sum -/

theorem NumSys.exact_zeros_add (n : ℕ) :
    List.zipWith NumSys.exact.addSample (NumSys.exact.zeros n) (NumSys.exact.zeros n) = NumSys.exact.zeros n := by
  simp [NumSys.zeros, NumSys.addSample, NumSys.zeroSample, NumSys.zero, NumSys.exact]

theorem padChunk_exact_zipWith (a : Active ℝ) {x w : List (Cplx ℝ)} (h : x.length = w.length) :
    padChunk NumSys.exact a (List.zipWith NumSys.exact.addSample x w) =
      List.zipWith NumSys.exact.addSample (padChunk NumSys.exact a x) (padChunk NumSys.exact a w) := by
  rw [padChunk, padChunk, padChunk, List.zipWith_append h, List.length_zipWith, h, Nat.min_self, NumSys.exact_zeros_add]

theorem stripPrefix_zipWith {K : Type} (a : Active K) (f : Cplx K → Cplx K → Cplx K) (x w : List (Cplx K)) :
    stripPrefix a (List.zipWith f x w) = List.zipWith f (stripPrefix a x) (stripPrefix a w) := by
  rw [stripPrefix, List.drop_zipWith, List.take_zipWith]
  rfl

theorem deprecode_exact_zipWith (a : Active ℝ) {x w : List (Cplx ℝ)} (h : x.length = w.length) :
    deprecode NumSys.exact a (List.zipWith NumSys.exact.addSample x w) =
      List.zipWith NumSys.exact.addSample (deprecode NumSys.exact a x) (deprecode NumSys.exact a w) := by
  unfold deprecode
  split
  · exact exactTransformList_zipWith_addSample 1 h
  · rfl

theorem ofdmDemod_exact_tbuf_zipWith (a : Active ℝ) {x w : List (Cplx ℝ)} (h : x.length = w.length) :
    (ofdmDemod NumSys.exact a (List.zipWith NumSys.exact.addSample x w)).tbuf =
      List.zipWith NumSys.exact.addSample (ofdmDemod NumSys.exact a x).tbuf (ofdmDemod NumSys.exact a w).tbuf :=
  (congrArg (stripPrefix a) (padChunk_exact_zipWith a h)).trans (stripPrefix_zipWith ..)

/-- Settles O35: each stage keeps sums, the zero samples at a chunk's end among them. -/
theorem demodulatorIsAdditive : Obligations.DemodulatorIsAdditive := by
  intro a x w h hx hnc
  obtain ⟨-, htx, hfx, -⟩ := ofdmDemod_lengths NumSys.exact a x hnc hx
  obtain ⟨-, htw, hfw, -⟩ := ofdmDemod_lengths NumSys.exact a w hnc (h ▸ hx)
  have hforward : (ofdmDemod NumSys.exact a (List.zipWith NumSys.exact.addSample x w)).fbuf =
      List.zipWith NumSys.exact.addSample (ofdmDemod NumSys.exact a x).fbuf (ofdmDemod NumSys.exact a w).fbuf :=
    (congrArg NumSys.exact.forward (ofdmDemod_exact_tbuf_zipWith a h)).trans
      (exactTransformList_zipWith_addSample (-1) (htx.trans htw.symm))
  have hbins : ((ofdmDemod NumSys.exact a x).fbuf.take a.nc.toNat).length =
      ((ofdmDemod NumSys.exact a w).fbuf.take a.nc.toNat).length := by rw [List.length_take, List.length_take, hfx, hfw]
  calc (ofdmDemod NumSys.exact a (List.zipWith NumSys.exact.addSample x w)).dbuf
      = deprecode NumSys.exact a (List.zipWith NumSys.exact.addSample ((ofdmDemod NumSys.exact a x).fbuf.take a.nc.toNat)
          ((ofdmDemod NumSys.exact a w).fbuf.take a.nc.toNat)) := by
        rw [ofdmDemod_dbuf, hforward, List.take_zipWith]
    _ = List.zipWith NumSys.exact.addSample (ofdmDemod NumSys.exact a x).dbuf (ofdmDemod NumSys.exact a w).dbuf :=
        deprecode_exact_zipWith a hbins

end Sys2Proof
end

section
/-! PROFLD and the fading channel: FADE, and CHTX on either channel (R204, R208, R216). -/

namespace Sys2Proof.Machine

/-! ### PROFLD -/

theorem flagWord_prof : ∀ cfg ch fs prof snr, flagWord cfg ch fs true snr = flagWord cfg ch fs prof snr ||| 8 := by decide

/-- R204: a profile change leaves the kind of channel as it was. -/
theorem channelType_withProfile (p : Profile) (c : Channel) : channelType (c.withProfile p) = channelType c := by
  cases c <;> rfl

/-- PROFLD sets `PROF_VALID`, bit 3 of `STATUS`, and no other flag (R31). -/
theorem statusWord_of_profile (s : State) (p : Profile) :
    State.statusWord { s with profile := some p, ch := s.ch.withProfile p } = s.statusWord ||| 8 := by
  have hvalid : State.chValid { s with profile := some p, ch := s.ch.withProfile p } = s.chValid :=
    congrArg (· != 0) (channelType_withProfile p s.ch)
  rw [statusWord_eq_flagWord, statusWord_eq_flagWord, hvalid]
  exact flagWord_prof ..

/-- R204: a filter keeps its rate and takes the profile; any other channel object stays. -/
theorem Channel.withProfile_cases (p : Profile) (c : Channel) :
    (∃ f, c = .rayleigh f ∧ c.withProfile p = .rayleigh ⟨f.fs, some p⟩) ∨
      ((∀ f, c ≠ .rayleigh f) ∧ c.withProfile p = c) := by
  cases c with
  | none => exact .inr ⟨nofun, rfl⟩
  | awgn => exact .inr ⟨nofun, rfl⟩
  | rayleigh f => exact .inl ⟨f, rfl, rfl⟩

/-- PROFLD of a tap count the encoding carries (R97, R204). -/
theorem exec_profld_of_le {taps : List Tap} (fd : Scalar) (s : State) (hlo : 1 ≤ taps.length) (hhi : taps.length ≤ 255) :
    exec (.profld taps fd) s =
      complete { s with profile := some ⟨taps, fd⟩, ch := s.ch.withProfile ⟨taps, fd⟩ } :=
  if_pos ⟨hlo, hhi⟩

/-- Settles O38: the profile and the channel object are written together, and the response changes neither. -/
theorem profldReplacesProfile : Obligations.ProfldReplacesProfile := by
  intro s taps fd hlo hhi
  refine ⟨_, exec_profld_of_le fd s hlo hhi, rfl, rfl, rfl, ?flag, Channel.withProfile_cases ⟨taps, fd⟩ s.ch, rfl⟩
  rw [State.respond_statusWord, statusWord_of_profile]

/-! ### FADE and CHTX -/

section fading
variable {s : State} {snr : Scalar} {n : BitVec 24}

theorem ne_nil_of_length_eq_count {α : Type} {l : List α} (hl : l.length = n.toNat) (h0 : n ≠ 0) : l ≠ [] := by
  rintro rfl
  exact h0 (BitVec.eq_of_toNat_eq hl.symm)

/-- The fade draw on the input of FADE n or CHTX n, once it is popped: n values, and one draw more unless n is 0. -/
theorem fadeDraw_popped (p : Profile) (r : Scalar) (hn : n.toNat ≤ s.ci.length) :
    ∃ f, fadeDraw p r (s.ci.take n.toNat) { s with ci := s.ci.drop n.toNat } =
        (f, { s with ci := s.ci.drop n.toNat, draws := if n = 0 then s.draws else s.draws + 1 }) ∧
      f.length = n.toNat := by
  have hx : (s.ci.take n.toNat).length = n.toNat := List.length_take_of_le hn
  refine ⟨_, Prod.ext rfl ?_, (fadeDraw_length ..).trans hx⟩
  rw [fadeDraw_state]
  by_cases h0 : n = 0
  · subst h0
    rfl
  · rw [if_neg h0, if_neg (ne_nil_of_length_eq_count hx h0)]

/-- R216: CHTX under AWGN is NOISE, with its input there or held. -/
theorem exec_chtx_of_awgn (hch : s.ch = .awgn) (hsnr : s.snrLin = some snr) : exec (.chtx n) s = exec (.noise n) s := by
  simp [exec, execChtx, execNoise, hch, hsnr]

end fading

/-- Settles O39: the values pushed are the fade draw on the samples popped. -/
theorem fadeKeepsLength : Obligations.FadeKeepsLength := by
  intro s f p r n hch hp hr hn
  obtain ⟨y, hdraw, hy⟩ := fadeDraw_popped p r hn
  refine ⟨y, ?_, hy⟩
  rw [exec_fade_of_le (fadingSetup_eq_some.mpr ⟨⟨f, hch⟩, hp, hr⟩) hn, hdraw]
  rfl

/-- Settles O42: under multipath the noise step follows on the fade draw, and on no samples both are nothing. -/
theorem chtxTransmits : Obligations.ChtxTransmits := by
  intro s snr n hsnr
  refine ⟨fun hch => exec_chtx_of_awgn hch hsnr, fun g p r hch hp hr h0 => ?empty, fun g p r hch hp hr hn h0 => ?samples⟩
  case empty =>
    subst h0
    rw [exec_chtx_of_le hch hsnr (fadingSetup_eq_some.mpr ⟨⟨g, hch⟩, hp, hr⟩) (Nat.zero_le _)]
    rfl
  case samples =>
    obtain ⟨f, hdraw, hf⟩ := fadeDraw_popped p r hn
    refine ⟨f, noiseDraw (s.draws + 1) n.toNat (Config.num.div (Config.num.meanPower f) snr), ?_, hf, noiseDraw_length ..,
      noiseDraw_of_eq_zero⟩
    rw [exec_chtx_of_le hch hsnr (fadingSetup_eq_some.mpr ⟨⟨g, hch⟩, hp, hr⟩) hn, hdraw, if_neg h0]
    dsimp only
    rw [noiseStep_of_ne (ne_nil_of_length_eq_count hf h0), hf]
    rfl

end Sys2Proof.Machine
end

section
/-! The exact mean power (R212, R215). -/

namespace Sys2Proof

/-- The sum of R212 from the first sample on is the energy. -/
theorem foldl_normSq_exact (x : List (Cplx ℝ)) :
    x.foldl (fun acc z => NumSys.exact.add acc (NumSys.exact.normSq z)) NumSys.exact.zero = energy x := by
  have hnormSq : NumSys.exact.normSq = magSq := funext fun z => by simp only [NumSys.normSq, NumSys.exact, magSq, sq]
  have hzero : NumSys.exact.zero = 0 := Nat.cast_zero
  rw [hnormSq, hzero, energy, List.sum_eq_foldl, List.foldl_map]
  rfl

theorem meanPower_exact (x : List (Cplx ℝ)) : NumSys.exact.meanPower x = meanMagSq x := by
  rw [NumSys.meanPower, foldl_normSq_exact, meanMagSq, div_eq_inv_mul]
  simp [NumSys.exact]

theorem NumSys.exact_zeroSample : NumSys.exact.zeroSample = ⟨0, 0⟩ :=
  congrArg₂ Cplx.mk Nat.cast_zero Nat.cast_zero

theorem magSq_eq_zero_iff {z : Cplx ℝ} : magSq z = 0 ↔ z = NumSys.exact.zeroSample := by
  rw [magSq, add_eq_zero_iff_of_nonneg (sq_nonneg _) (sq_nonneg _), sq_eq_zero_iff, sq_eq_zero_iff,
    NumSys.exact_zeroSample, Cplx.mk.injEq]

/-- Squared magnitudes are not negative, so their sum is 0 only where each of them is. -/
theorem energy_eq_zero_iff {x : List (Cplx ℝ)} : energy x = 0 ↔ x = NumSys.exact.zeros x.length := by
  constructor
  · intro h
    have hzero : ∀ z ∈ x, magSq z = 0 := fun z hz =>
      List.all_zero_of_le_zero_le_of_sum_eq_zero (List.forall_mem_map.mpr fun w _ => magSq_nonneg w) h (List.mem_map_of_mem hz)
    exact List.eq_replicate_of_mem fun z hz => magSq_eq_zero_iff.mp (hzero z hz)
  · intro h
    rw [h, energy_exact_zeros]

theorem meanPower_exact_zeros (n : ℕ) : NumSys.exact.meanPower (NumSys.exact.zeros n) = 0 := by
  rw [meanPower_exact, meanMagSq, energy_exact_zeros, zero_div]

/-- Settles O41: the mean power is the energy over n, and a non-empty signal has none exactly where every sample is 0. -/
theorem exactMeanPower : Obligations.ExactMeanPower := by
  intro x snr hx
  have hn : (x.length : ℝ) ≠ 0 := by simpa using hx
  refine ⟨meanPower_exact x, ?_, ?_⟩
  · rw [meanPower_exact, meanMagSq, div_eq_zero_iff, or_iff_left hn, energy_eq_zero_iff]
  · rw [meanPower_exact_zeros]
    exact zero_div snr

end Sys2Proof
end

section
/-! The symbol detector: DET and SER (R231 to R236). -/

namespace Sys2Proof

/-! ### The nearest entries of a sequence -/

section table
variable {K : Type} {b : Nat} {num : NumSys K} {rom : Vector (Cplx K) (2 ^ b)}

theorem romAt_mem_toList (i : BitVec b) : romAt rom i ∈ rom.toList := by simp [romAt]

theorem mem_toList_of_mem_detectSymbols {r : List (Cplx K)} {z : Cplx K} (hz : z ∈ detectSymbols num rom r) :
    z ∈ rom.toList := by
  obtain ⟨x, -, rfl⟩ := List.mem_map.mp hz
  exact romAt_mem_toList _

theorem detectSymbols_getElem? {r : List (Cplx K)} {z : Cplx K} {j : Nat} (hj : r[j]? = some z) :
    (detectSymbols num rom r)[j]? = some (romAt rom (nearest num rom z)) := by
  simp [detectSymbols, hj]

/-- R232 (b): each detected symbol is an entry, so it is detected as itself. -/
theorem detectSymbols_detectSymbols (hsep : Separates num rom) (r : List (Cplx K)) :
    detectSymbols num rom (detectSymbols num rom r) = detectSymbols num rom r := by
  rw [detectSymbols, detectSymbols, List.map_map]
  exact List.map_congr_left fun z _ => congrArg (romAt rom) (nearest_romAt hsep _)

/-- R234: each detected symbol is the entry at the index whose bits DEC gives. -/
theorem decodeSymbols_detectSymbols (hsep : Separates num rom) (r : List (Cplx K)) :
    decodeSymbols num rom (detectSymbols num rom r) = decodeSymbols num rom r := by
  rw [decodeSymbols, detectSymbols, List.flatMap_map]
  exact List.flatMap_congr fun z _ => congrArg indexBits (nearest_romAt hsep _)

end table

/-- Settles O47: under `Separates` an entry is its own nearest. -/
theorem detThenDecIsDec : Obligations.DetThenDecIsDec :=
  fun _ _ _ _ hsep r => ⟨detectSymbols_detectSymbols hsep r, decodeSymbols_detectSymbols hsep r⟩

/-! ### Counting the unequal pairs -/

/-- Elements are counted by their positions. -/
theorem countP_eq_countP_range {α : Type*} {l : List α} {p : α → Bool} {q : Nat → Bool}
    (h : ∀ i z, l[i]? = some z → q i = p z) : l.countP p = (List.range l.length).countP q := by
  have hmap : l.map p = (List.range l.length).map q :=
    List.ext_getElem (by simp) fun i hi _ => by
      simp [h i _ (List.getElem?_eq_getElem (by simpa using hi))]
  rw [← Function.id_comp p, ← List.countP_map, hmap, List.countP_map, Function.id_comp]

theorem getElem?_eq_some_of_take {α : Type*} {l : List α} {n i : Nat} {x : α} (h : (l.take n)[i]? = some x) :
    l[i]? = some x :=
  (Option.ite_none_right_eq_some.mp (List.getElem?_take.symm.trans h)).2

/-- R236: the pairs of SER, by position; `q i` says whether elements `i` and `n + i` are unequal. -/
theorem Machine.symbolErrors_take_drop {K : Type} {num : NumSys K} {l : List (Cplx K)} {n : Nat} {q : Nat → Bool}
    (hl : l.length = n + n) (hq : ∀ i x y, l[i]? = some x → l[n + i]? = some y → q i = !num.eqSample x y) :
    symbolErrors num (l.take n) (l.drop n) = (List.range n).countP q := by
  have hlen : (List.zip (l.take n) (l.drop n)).length = n := by simp [hl]
  rw [symbolErrors, countP_eq_countP_range (q := q) fun i z hz => ?_, hlen]
  obtain ⟨hx, hy⟩ := List.getElem?_zip_eq_some.mp hz
  exact hq i _ _ (getElem?_eq_some_of_take hx) (List.getElem?_drop.symm.trans hy)

end Sys2Proof

namespace Sys2Proof.Machine

/-- Settles O45: the values pushed are `detectSymbols` of the symbols popped, entry by entry. -/
theorem detPushesRomEntries : Obligations.DetPushesRomEntries := by
  intro s a n ha hn
  refine ⟨detectSymbols Config.num a.rom (s.ci.take n.toNat), ?_, ?_, fun z hz => ?_, fun j r hj hr => ?_⟩
  · exact (needConfig_some ha).trans (popSamples_of_le hn)
  · rw [detectSymbols_length, List.length_take_of_le hn]
  · exact mem_toList_of_mem_detectSymbols hz
  · exact detectSymbols_getElem? (by rwa [List.getElem?_take_of_lt hj])

/-- SER of two equal counts with its input there (R236). -/
theorem exec_ser_of_le {s : State} {a : BitVec 12} (h : a.toNat + a.toNat ≤ s.ci.length) :
    exec (.ser a a) s = complete { s with
      ci := s.ci.drop (a.toNat + a.toNat)
      serErrs := BitVec.ofNat 32 (symbolErrors Config.num ((s.ci.take (a.toNat + a.toNat)).take a.toNat)
        ((s.ci.take (a.toNat + a.toNat)).drop a.toNat))
      serTotal := BitVec.ofNat 32 a.toNat } :=
  (if_neg (not_not.mpr rfl)).trans (popSamples_of_le h)

/-- Settles O46: the count over the pairs of the popped sequence is the count over its positions. -/
theorem serCountsErrors : Obligations.SerCountsErrors := by
  intro s a hn
  rw [Nat.two_mul] at hn ⊢
  refine ⟨_, ?_, List.countP_le_length.trans List.length_range.le, rfl⟩
  rw [exec_ser_of_le hn, symbolErrors_take_drop (List.length_take_of_le hn) fun i x y hx hy => ?_]
  · rfl
  simp only [getElem?_eq_some_of_take hx, getElem?_eq_some_of_take hy, NumSys.eqSample]

end Sys2Proof.Machine
end

section
/-! Errors and refusals: the errors that CHSEL and SER name, what an error leaves unchanged, which commands are refused (R251 to R264, R266,
R277, R291, R306). -/

namespace Sys2Proof.Machine

/-! ### The errors of CHSEL and SER -/

theorem exec_chsel_of_fs_unwritten {s : State} (h : s.fs = none) :
    exec (.chsel 2) s = fail .missingSampleRate (wordOf (.chsel 2)) s := by
  simp [exec, execChsel, h]

theorem exec_chsel_of_unknown {t : BitVec 8} (h1 : t ≠ 1) (h2 : t ≠ 2) (s : State) :
    exec (.chsel t) s = fail .unknownChannelType (wordOf (.chsel t)) s := by
  simp only [exec, execChsel, if_neg h1, if_neg h2]

theorem exec_ser_of_ne {a b : BitVec 12} (h : a ≠ b) (s : State) :
    exec (.ser a b) s = fail .dataShape (wordOf (.ser a b)) s := if_pos h

/-- Settles O37: none of the three checks looks at the input, and CHSEL 1 makes none; bit 4 of ERR is `0x10`. -/
theorem namedErrorsOfChselAndSer : Obligations.NamedErrorsOfChselAndSer := by
  refine fun s t a b => ⟨fun hfs => exec_chsel_of_fs_unwritten ?_, ⟨_, exec_chsel_awgn s, rfl⟩,
    fun h1 h2 => exec_chsel_of_unknown h1 h2 s, fun hab => exec_ser_of_ne hab s⟩
  simpa [State.fsValid] using hfs

/-! ### What an error leaves unchanged -/

/-- Settles O51: the command has raised its error, and every code of R251 is from 1 to 7. -/
theorem errorsArePrecise : Obligations.ErrorsArePrecise := by
  intro i s t c d h hresp hc
  obtain ⟨e, rfl, rfl, rfl⟩ := exec_next_of_code_ne_zero h hresp hc
  exact ⟨errorCode_pos e, errorCode_le e, rfl, rfl⟩

/-! ### Which operations go on -/

/-- A command has a next state: it neither faults nor is refused. -/
def Answers (o : Out) : Prop := ∃ t, o = .next t

section answers
variable {s : State}

theorem answers_complete (s : State) : Answers (complete s) := ⟨_, rfl⟩

theorem answers_fail (e : ErrorCode) (w : Word) (s : State) : Answers (fail e w s) := ⟨_, rfl⟩

theorem answers_needConfig {w : Word} {k : Active Scalar → Out} (h : ∀ a, s.active = some a → Answers (k a)) :
    Answers (needConfig w s k) := by
  cases ha : s.active with
  | none => exact ⟨_, needConfig_none ha⟩
  | some a => exact needConfig_some ha ▸ h a ha

theorem answers_needPrefix {K : Type} {a : Active K} {k : Out} (h : ¬ a.nfft.toNat ≤ a.cplen.toNat) (hk : Answers k) :
    Answers (needPrefix a k) := needPrefix_of_lt (Nat.not_le.mp h) ▸ hk

theorem answers_popBits {n : Nat} {f : List Bit → State → State} : Answers (popBits n s fun b u => complete (f b u)) := by
  rcases Nat.lt_or_ge s.bi.length n with hn | hn
  · exact ⟨_, popBits_of_lt hn⟩
  · exact ⟨_, popBits_of_le hn⟩

theorem answers_popSamples {n : Nat} {f : List Sample → State → State} :
    Answers (popSamples n s fun x u => complete (f x u)) := by
  rcases Nat.lt_or_ge s.ci.length n with hn | hn
  · exact ⟨_, popSamples_of_lt hn⟩
  · exact ⟨_, popSamples_of_le hn⟩

end answers

/-! ### The two grounds of a refusal -/

/-- R167, R291: a transceiver command, the checks before the host's duty passed, under cp ≥ N (log 9). -/
def PrefixTooLong (i : Instr) (s : State) : Prop :=
  transceiver i = true ∧ ∃ a, s.active = some a ∧ a.nfft.toNat ≤ a.cplen.toNat ∧
    ∀ n, i = .demsym n → n.toNat ≤ a.nfft.toNat + a.cplen.toNat

/-- R128 (f): a write to `SNR_LIN` of a value not above 0 (log 10). -/
def WritesNonPositiveSnr (i : Instr) : Prop :=
  ∃ x : Scalar, i = .wrreg 0x20 (.scalar x) ∧ Config.num.lt (Config.num.ofNat 0) x = false

theorem refusedWrite_eq_true_iff {r : Reg} {v : Item} :
    refusedWrite r v = true ↔ r = .snrLin ∧ ∃ x, v = .scalar x ∧ Config.num.lt (Config.num.ofNat 0) x = false := by
  cases r <;> cases v <;> simp [refusedWrite, NumSys.zero]

theorem exec_of_prefixTooLong {i : Instr} {s : State} (h : PrefixTooLong i s) : exec i s = .refused .cyclicPrefixTooLong := by
  obtain ⟨hi, a, ha, hcp, hspo⟩ := h
  cases i
  case modsym => exact (needConfig_some ha).trans (needPrefix_of_le hcp)
  case modstr n => exact (needConfig_some ha).trans (needPrefix_of_le hcp)
  case demstr n => exact (needConfig_some ha).trans (needPrefix_of_le hcp)
  case demsym n =>
    exact (needConfig_some ha).trans <| (if_neg (Nat.not_lt.mpr (hspo n rfl))).trans (needPrefix_of_le hcp)
  all_goals exact absurd hi Bool.false_ne_true

theorem exec_of_writesNonPositiveSnr {i : Instr} (h : WritesNonPositiveSnr i) (s : State) :
    exec i s = .refused .snrNotPositive := by
  obtain ⟨x, rfl, hx⟩ := h
  exact (exec_wrreg_of_writeReg (r := .snrLin) rfl).trans (if_pos (refusedWrite_eq_true_iff.mpr ⟨rfl, x, rfl, hx⟩))

/-- Every command on neither ground has a next state. -/
theorem exec_answers {i : Instr} {s : State} (hcp : ¬ PrefixTooLong i s) (hsnr : ¬ WritesNonPositiveSnr i) :
    Answers (exec i s) := by
  cases i with
  | nop => exact answers_complete _
  | reset => exact answers_complete _
  | clrerr => exact answers_complete _
  | rdreg reg =>
    simp only [exec, execRdreg]
    split
    · exact answers_fail ..
    · split
      · exact answers_fail ..
      · exact ⟨_, rfl⟩
  | wrreg reg v =>
    simp only [exec, execWrreg]
    split
    · exact answers_fail ..
    next r hreg =>
      split
      · exact answers_fail ..
      · split
        next hrefused =>
          obtain ⟨rfl, x, rfl, hx⟩ := refusedWrite_eq_true_iff.mp hrefused
          obtain rfl := Reg.number_of_ofNumber hreg
          exact absurd ⟨x, rfl, hx⟩ hsnr
        · exact answers_complete _
  | commit =>
    simp only [exec, execCommit]
    split
    · split
      · exact answers_fail ..
      · split
        · exact answers_fail ..
        · exact answers_complete _
    · exact answers_fail ..
  | enc n => exact answers_needConfig fun a _ => answers_popBits
  | dec n => exact answers_needConfig fun a _ => answers_popSamples
  | det n => exact answers_needConfig fun a _ => answers_popSamples
  | modsym =>
    exact answers_needConfig fun a ha => answers_needPrefix (fun hle => hcp ⟨rfl, a, ha, hle, nofun⟩) answers_popBits
  | modstr n =>
    exact answers_needConfig fun a ha => answers_needPrefix (fun hle => hcp ⟨rfl, a, ha, hle, nofun⟩) answers_popBits
  | demstr n =>
    exact answers_needConfig fun a ha => answers_needPrefix (fun hle => hcp ⟨rfl, a, ha, hle, nofun⟩) answers_popSamples
  | demsym n =>
    refine answers_needConfig fun a ha => ?_
    split
    · exact answers_fail ..
    next hspo =>
      refine answers_needPrefix (fun hle => hcp ⟨rfl, a, ha, hle, ?_⟩) answers_popSamples
      rintro m ⟨⟩
      exact Nat.not_lt.mp hspo
  | chsel t =>
    simp only [exec, execChsel]
    split
    · exact answers_complete _
    · split
      · split
        · exact answers_fail ..
        · exact answers_complete _
      · exact answers_fail ..
  | profld taps fd =>
    simp only [exec, execProfld]
    split
    · exact answers_complete _
    · exact answers_fail ..
  | fade n =>
    simp only [exec, execFade]
    split
    · exact answers_fail ..
    · exact answers_popSamples
  | noise n =>
    simp only [exec, execNoise]
    split
    · exact answers_popSamples
    · exact answers_popSamples
    · exact answers_fail ..
  | chtx n =>
    simp only [exec, execChtx]
    split
    · exact answers_popSamples
    · split
      · exact answers_fail ..
      · exact answers_popSamples
    · exact answers_fail ..
  | ser a b =>
    simp only [exec, execSer]
    split
    · exact answers_fail ..
    · exact answers_popSamples

/-- Settles O53: a command on neither ground has a next state, and on either one it is refused by that ground's name. -/
theorem refusalsOnlyByRule : Obligations.RefusalsOnlyByRule := by
  intro i s
  show (∀ f, exec i s ≠ .fault f) ∧ ∀ q, exec i s = .refused q ↔
    (q = .cyclicPrefixTooLong ∧ PrefixTooLong i s) ∨ (q = .snrNotPositive ∧ WritesNonPositiveSnr i)
  by_cases hcp : PrefixTooLong i s
  · have hrefused := exec_of_prefixTooLong hcp
    have hsnr : ¬ WritesNonPositiveSnr i := fun h => by cases hrefused.symm.trans (exec_of_writesNonPositiveSnr h s)
    simp [hrefused, hcp, hsnr, eq_comm]
  by_cases hsnr : WritesNonPositiveSnr i
  · simp [exec_of_writesNonPositiveSnr hsnr s, hcp, hsnr, eq_comm]
  · obtain ⟨t, ht⟩ := exec_answers hcp hsnr
    simp [ht, hcp, hsnr]

end Sys2Proof.Machine
end
